-- ==== Sys2Proof/Word.lean ====
section
/-! DEFINITION. The widths of the command and response fields (00_scope.md R7; 30_encoding.md R50). -/

namespace Sys2Proof

/-- A DATA_W-bit operand or result value (R7, R9): unsigned, bit 0 least significant (R10, R41). -/
abbrev Data := BitVec 16

/-- The OP_W-bit opcode field (R7, R50). -/
abbrev Opcode := BitVec 4

/-- The ERR_W-bit error-code field (R7, R130). -/
abbrev ErrCode := BitVec 3

/-- The CMD_W-bit command word: op in bits 35:32, A in bits 31:16, B in bits 15:0 (R50). -/
abbrev CmdWord := BitVec 36

end Sys2Proof
end

