-- ==== Sys2Proof/Config.lean ====
section
/-! DEFINITION. The block's fixed parameters (00_scope.md R7) and the values the spec leaves free. -/

namespace Sys2Proof.Config

/-- FIELD_BITS, hardwired (R2, R7, R27). -/
def fieldBits : Nat := 8

/-- REDUCTION_POLY = x^8 + x^4 + x^3 + x + 1, hardwired (R2, R7, R27). -/
def reductionPoly : Nat := 0x11B

/-- DATA_W (R7, R8). -/
def dataW : Nat := 16

/-- OP_W (R7). -/
def opW : Nat := 4

/-- CMD_W = OP_W + 2·DATA_W (R7). -/
def cmdW : Nat := opW + 2 * dataW

/-- ERR_W (R7). -/
def errW : Nat := 3

/-- LEN_MAX = DATA_W, the largest bit length of a value (R7). -/
def lenMax : Nat := dataW

/-- LATENCY: edges from acceptance to a valid response (R7, R161). The step function is edge
accurate, so this is what it does and nothing reads the constant. -/
def latency : Nat := 1

/-- F8_HEX_PREFIX, left open by the spec (R7, R123, U1): a free value, log 6. -/
opaque f8HexPrefix : String

/-- `rsp_valid` before the first reset edge (R151, U4): a free value, log 2. -/
opaque powerUpValid : Bool

/-- `rsp_data` before the first reset edge (R151, U4): a free value, log 2. -/
opaque powerUpData : Data

/-- `rsp_err` before the first reset edge (R151, U4): a free value, log 2. -/
opaque powerUpErr : ErrCode

/-- `rsp_red` before the first reset edge (R151, U4): a free value, log 2. -/
opaque powerUpRed : Bool

end Sys2Proof.Config
end

