-- ==== Sys2Proof/Syntax.lean ====
section
/-! DEFINITION. The commands of GF8CMD v1: one constructor per row of the opcode table (R54). -/

namespace Sys2Proof

/-- A command, with both operand fields of its word. A field the command ignores (R53, R57) is kept
here as it stands in the word, so that decoding drops no bit of an encoding. -/
inductive Instr where
  /-- BV_PASS A, opcode 0x0 (R71). B is ignored. -/
  | bvPass (a b : Data)
  /-- BV_LEN A, opcode 0x1 (R72). B is ignored. -/
  | bvLen (a b : Data)
  /-- BV_GETBIT A, B, opcode 0x2 (R73). -/
  | bvGetbit (a b : Data)
  /-- BV_XOR A, B, opcode 0x3 (R74). -/
  | bvXor (a b : Data)
  /-- BV_SHL A, B, opcode 0x4 (R75). -/
  | bvShl (a b : Data)
  /-- BV_SHR A, B, opcode 0x5 (R76). -/
  | bvShr (a b : Data)
  /-- FE_ADD A, B, opcode 0x6 (R91). -/
  | feAdd (a b : Data)
  /-- FE_MUL A, B, opcode 0x7 (R94). -/
  | feMul (a b : Data)
  /-- F8_REDUCE A, opcode 0x8 (R105). B is ignored. -/
  | f8Reduce (a b : Data)
  /-- F8_REDUCE_STRICT A, opcode 0x9 (R106). B is ignored. -/
  | f8ReduceStrict (a b : Data)
  /-- F8_MUL A, B, opcode 0xA (R107). -/
  | f8Mul (a b : Data)
  /-- Reserved opcode 0xB (R57). A and B are ignored. -/
  | reservedB (a b : Data)
  /-- Reserved opcode 0xC (R57). A and B are ignored. -/
  | reservedC (a b : Data)
  /-- Reserved opcode 0xD (R57). A and B are ignored. -/
  | reservedD (a b : Data)
  /-- Reserved opcode 0xE (R57). A and B are ignored. -/
  | reservedE (a b : Data)
  /-- Reserved opcode 0xF (R57). A and B are ignored. -/
  | reservedF (a b : Data)
  deriving DecidableEq, Repr

/-- The field A of the command's word. -/
def Instr.fieldA : Instr → Data
  | .bvPass a _ | .bvLen a _ | .bvGetbit a _ | .bvXor a _ | .bvShl a _ | .bvShr a _
  | .feAdd a _ | .feMul a _ | .f8Reduce a _ | .f8ReduceStrict a _ | .f8Mul a _
  | .reservedB a _ | .reservedC a _ | .reservedD a _ | .reservedE a _ | .reservedF a _ => a

/-- The field B of the command's word. -/
def Instr.fieldB : Instr → Data
  | .bvPass _ b | .bvLen _ b | .bvGetbit _ b | .bvXor _ b | .bvShl _ b | .bvShr _ b
  | .feAdd _ b | .feMul _ b | .f8Reduce _ b | .f8ReduceStrict _ b | .f8Mul _ b
  | .reservedB _ b | .reservedC _ b | .reservedD _ b | .reservedE _ b | .reservedF _ b => b

end Sys2Proof
end

