-- ==== Sys2Proof/Machine/State.lean ====
section
/-! DEFINITION. The state of the block and of the host beside it (10_state.md R20, R21, R34; 20 R49),
the reasons a step can stop, and the state after reset (70 R151). -/

namespace Sys2Proof.Machine

/-- No rule of the spec stops the block: an error is the response of the command that raised it
(R131), and there is no trap (R136). So there is no fault. -/
inductive Fault where
  deriving DecidableEq, Repr

/-- Why the model refuses. Each is a treatment the spec itself prescribes; all are safe. -/
inductive Refusal where
  /-- Raised by an arm of `exec` for a command without a meaning yet. Safe. None is left. -/
  | notModelled (mnemonic : String)
  /-- Raised by `step` when `cmd_valid = 1` and some wire of the command is neither 0 nor 1: "A
  command with an unknown wire has no meaning in the model; the model refuses it" (R157, U9). Safe. -/
  | unknownCommandWire
  /-- Raised by `step` when the host presents a command or takes a response before the first reset
  edge after power-up (R153, U4). Safe. -/
  | usedBeforeFirstReset
  /-- Raised by the host-side rendering `f8Hex` for a value of 256 or more (R123, U13). Safe. -/
  | f8HexOfUnreducedValue
  deriving DecidableEq, Repr

/-- The levels on an `n`-bit input bus at one edge: every wire 0 or 1, or some wire unknown or
floating (R157). -/
inductive Bus (n : Nat) where
  | driven (v : BitVec n)
  | unknown
  deriving DecidableEq, Repr

/-- The input ports of R20 as sampled at one rising edge of `clk`. `rst`, `cmd_valid` and
`rsp_ready` are 0 or 1 at every edge (R157). -/
structure EdgeInput where
  rst : Bool
  cmdValid : Bool
  cmdOp : Bus 4
  cmdA : Bus 16
  cmdB : Bus 16
  rspReady : Bool
  deriving DecidableEq, Repr

/-- The three fields of a response that leave the block together (R22, R43). -/
structure Response where
  data : Data
  err : ErrCode
  red : Bool
  deriving DecidableEq, Repr

/-- What became of an accepted command's response (R162). -/
inductive Fate where
  /-- It stands in the response register, not yet taken. -/
  | pending
  /-- The host took it (R20, R158). -/
  | taken (r : Response)
  /-- Reset discarded it (R152, U11). -/
  | lost
  deriving DecidableEq, Repr

/-- One entry of a run: an accepted command paired with what the host got for it (R162). -/
structure Transaction where
  cmd : Instr
  fate : Fate
  deriving DecidableEq, Repr

/-- The machine. The first four fields are all of the block's architectural state (R21, R34). The
others are the model's own: they hold the host, the second agent of R49. -/
structure State where
  /-- The response register holds a response not yet taken (R21). -/
  rspValid : Bool
  /-- Result value (R21). -/
  rspData : Data
  /-- Error code, 0 = none (R21, R24). -/
  rspErr : ErrCode
  /-- Reduction flag (R21, R23). -/
  rspRed : Bool
  /-- A reset edge has been seen since power-up (R151, R153, log 2). -/
  booted : Bool
  /-- What the host drives at the coming edges, earliest first (R20, R49, log 1). -/
  inputs : List EdgeInput
  /-- The host's record of accepted commands, newest first (R44, R162, log 3). -/
  log : List Transaction
  deriving DecidableEq, Repr

/-- The state after one reset edge (R34, R151); the script and the record are empty (log 1, log 3). -/
def State.reset : State where
  rspValid := false
  rspData := 0x0000
  rspErr := 0
  rspRed := false
  booted := true
  inputs := []
  log := []

/-- The state at power-up, before the first reset edge: every register holds any value (R151, U4,
log 2). -/
def State.powerUp : State where
  rspValid := Config.powerUpValid
  rspData := Config.powerUpData
  rspErr := Config.powerUpErr
  rspRed := Config.powerUpRed
  booted := false
  inputs := []
  log := []

/-- What every meaning and every step answers. -/
abbrev Result := Host.Outcome State Fault Refusal

end Sys2Proof.Machine
end

