-- ==== Sys2Proof/Machine/Operands.lean ====
section
/-! DEFINITION. Operands as numbers, and the bit-level readings every rule uses (00_scope.md R9 to
R11; 30_encoding.md R52). -/

namespace Sys2Proof.Machine

/-- An operand field as the unsigned integer it stands for: zero-extended, not scaled, not reduced
modulo anything (R52). -/
def operand (v : Data) : Nat := v.toNat

/-- The bit length: 0 for 0, else the index of the highest set bit plus one (R10). -/
def blen (v : Nat) : Nat := if v = 0 then 0 else v.log2 + 1

/-- `v[i]` as a number, `(v >> i) & 1` (R10). -/
def bitAt (v i : Nat) : Nat := (v >>> i) &&& 1

/-- The value on a DATA_W-bit bus (R11, R22). It keeps every bit of a value of bit length at most 16. -/
def zext16 (v : Nat) : Data := BitVec.ofNat 16 v

end Sys2Proof.Machine
end

