-- ==== Sys2Proof/Machine/Flags.lean ====
section
/-! DEFINITION. The error code and the reduction flag of a response (60_exceptions.md R130; 10_state.md
R23, R24). -/

namespace Sys2Proof.Machine

/-- The error kinds of R130. -/
inductive ErrorKind where
  /-- No command raises it: the ports carry unsigned integers only (R9, R130, U6). -/
  | invalidArgument
  /-- BV_GETBIT (R73). -/
  | indexOutOfRange
  /-- F8_REDUCE_STRICT (R106), F8_MUL (R107). -/
  | invariantViolation
  /-- BV_SHL (R75), FE_MUL (R94). -/
  | rangeOverflow
  /-- The reserved opcodes (R57). -/
  | illegalOperation
  deriving DecidableEq, Repr

/-- The codes of R130. -/
def ErrorKind.code : ErrorKind → ErrCode
  | .invalidArgument => 1
  | .indexOutOfRange => 2
  | .invariantViolation => 3
  | .rangeOverflow => 4
  | .illegalOperation => 5

/-- `rsp_err` of a command that completed (R24, R130). -/
def noError : ErrCode := 0

end Sys2Proof.Machine
end

