-- ==== Sys2Proof/Machine/Ops.lean ====
section
/-! DEFINITION. The operations over the response register that every meaning uses: `respond`
(10_state.md R22) and `raise` (60_exceptions.md R131). There is no trap and no return from one
(R136, R137): `raise` is the whole of taking an error. -/

namespace Sys2Proof.Machine

/-- The response the register holds. -/
def State.response (s : State) : Response := ⟨s.rspData, s.rspErr, s.rspRed⟩

/-- All four fields written at one edge (R22, R43). -/
def State.writeResponse (s : State) (r : Response) : State :=
  { s with rspValid := true, rspData := r.data, rspErr := r.err, rspRed := r.red }

/-- `respond(data, err, red)` (R11, R22). -/
def respond (data : Nat) (err : ErrCode) (red : Bool) (s : State) : Result :=
  .next (s.writeResponse ⟨zext16 data, err, red⟩)

/-- `raise E` ends the command with `respond(0, code(E), 0)` (R131). -/
def raise (e : ErrorKind) (s : State) : Result := respond 0 e.code false s

end Sys2Proof.Machine
end

