-- ==== Sys2Proof/Machine/BitVector.lean ====
section
/-! DEFINITION. The BitVector commands (40_bitvector.md R70 to R76). -/

namespace Sys2Proof.Machine

/-- BV_PASS (R71). -/
def execBvPass (a : Data) (s : State) : Result := respond (operand a) noError false s

/-- BV_LEN (R72). -/
def execBvLen (a : Data) (s : State) : Result := respond (blen (operand a)) noError false s

/-- BV_GETBIT (R73). -/
def execBvGetbit (a b : Data) (s : State) : Result :=
  if ¬ operand b < blen (operand a) then raise .indexOutOfRange s
  else respond (bitAt (operand a) (operand b)) noError false s

/-- BV_XOR (R74). -/
def execBvXor (a b : Data) (s : State) : Result :=
  respond (operand a ^^^ operand b) noError false s

/-- BV_SHL (R75). -/
def execBvShl (a b : Data) (s : State) : Result :=
  if operand a = 0 then respond 0 noError false s
  else if blen (operand a) + operand b > Config.dataW then raise .rangeOverflow s
  else respond (operand a <<< operand b) noError false s

/-- BV_SHR (R76). -/
def execBvShr (a b : Data) (s : State) : Result :=
  respond (operand a >>> operand b) noError false s

end Sys2Proof.Machine
end

