-- ==== Sys2Proof/Machine/Polynomial.lean ====
section
/-! DEFINITION. Polynomials over GF(2) as numbers: the carry-less product (41_field_element.md R92) and
the reduction modulo 0x11B (42_field8.md R101, R102). -/

namespace Sys2Proof.Machine

/-- The XOR of `a << i` over the set bits `b[i]` with `i < n` (the loop body of R92). -/
def clmulBelow (a b : Nat) : Nat → Nat
  | 0 => 0
  | n + 1 => if b.testBit n then clmulBelow a b n ^^^ (a <<< n) else clmulBelow a b n

/-- The unreduced product `clmul(a, b)`; `a` is self, `b` is other (R92). -/
def clmul (a b : Nat) : Nat := clmulBelow a b (blen b)

/-- The scan at position `i`: `tested` is the value whose bit `i` is read, and the pair is the value so
far with the flag (R102). -/
def reduceStep (tested i : Nat) (st : Nat × Bool) : Nat × Bool :=
  if tested.testBit i then (st.1 ^^^ (Config.reductionPoly <<< (i - Config.fieldBits)), true) else st

/-- One pass over the `n` positions `FIELD_BITS + n - 1` down to `FIELD_BITS`, each step reading the
CURRENT value (R102, decision D16). -/
def reducePass : Nat → Nat × Bool → Nat × Bool
  | 0, st => st
  | n + 1, st => reducePass n (reduceStep st.1 (Config.fieldBits + n) st)

/-- `while blen(v) > 8` of R102, for at most `fuel` passes. A pass clears the top bit, so `blen v`
passes are always enough. -/
def reduceLoop : Nat → Nat × Bool → Nat × Bool
  | 0, st => st
  | fuel + 1, st =>
    if blen st.1 > Config.fieldBits then
      reduceLoop fuel (reducePass (blen st.1 - Config.fieldBits) st)
    else st

/-- `reduce(v) -> (r, red)` (R102). -/
def reduce (v : Nat) : Nat × Bool := reduceLoop (blen v) (v, false)

/-- `polymod(v)`: the value the reduction engine leaves (R32, R101, R102). -/
def polymod (v : Nat) : Nat := (reduce v).1

/-- One pass of the other reading of R102's "if bit i is set": every step reads the value `snap` the pass
began with (R103, U2). No command uses it. -/
def snapshotPass (snap : Nat) : Nat → Nat × Bool → Nat × Bool
  | 0, st => st
  | n + 1, st => snapshotPass snap n (reduceStep snap (Config.fieldBits + n) st)

/-- `while blen(v) > 8` under the snapshot reading (R103). -/
def snapshotLoop : Nat → Nat × Bool → Nat × Bool
  | 0, st => st
  | fuel + 1, st =>
    if blen st.1 > Config.fieldBits then
      snapshotLoop fuel (snapshotPass st.1 (blen st.1 - Config.fieldBits) st)
    else st

/-- `reduce(v)` under the snapshot reading (R103). -/
def reduceSnapshot (v : Nat) : Nat × Bool := snapshotLoop (blen v) (v, false)

end Sys2Proof.Machine
end

