-- ==== Sys2Proof/Machine/Field8.lean ====
section
/-! DEFINITION. The Field8Element commands (42_field8.md R100, R105 to R107). -/

namespace Sys2Proof.Machine

/-- F8_REDUCE (R105). -/
def execF8Reduce (a : Data) (s : State) : Result :=
  let rr := reduce (operand a)
  respond rr.1 noError rr.2 s

/-- F8_REDUCE_STRICT (R106). -/
def execF8ReduceStrict (a : Data) (s : State) : Result :=
  let rr := reduce (operand a)
  if rr.2 then raise .invariantViolation s
  else respond rr.1 noError false s

/-- F8_MUL: the strict check of B first, then A reduced on the way in; the flag is that of the product's
reduction alone (R107, R134). -/
def execF8Mul (a b : Data) (s : State) : Result :=
  if (reduce (operand b)).2 then raise .invariantViolation s
  else
    let self := (reduce (operand a)).1
    let p := clmul self (operand b)
    let rr := reduce p
    respond rr.1 noError rr.2 s

end Sys2Proof.Machine
end

