-- ==== Sys2Proof/Machine/FieldElement.lean ====
section
/-! DEFINITION. The FieldElement commands (41_field_element.md R90 to R94). -/

namespace Sys2Proof.Machine

/-- FE_ADD (R91). -/
def execFeAdd (a b : Data) (s : State) : Result :=
  respond (operand a ^^^ operand b) noError false s

/-- FE_MUL (R94). -/
def execFeMul (a b : Data) (s : State) : Result :=
  let p := clmul (operand a) (operand b)
  if blen p > Config.dataW then raise .rangeOverflow s
  else respond p noError false s

end Sys2Proof.Machine
end

