-- ==== Sys2Proof/Machine/Reserved.lean ====
section
/-! DEFINITION. The reserved opcodes (30_encoding.md R57): accepted, answered IllegalOperation. -/

namespace Sys2Proof.Machine

/-- Opcode 0xB (R57). -/
def execReservedB (s : State) : Result := raise .illegalOperation s

/-- Opcode 0xC (R57). -/
def execReservedC (s : State) : Result := raise .illegalOperation s

/-- Opcode 0xD (R57). -/
def execReservedD (s : State) : Result := raise .illegalOperation s

/-- Opcode 0xE (R57). -/
def execReservedE (s : State) : Result := raise .illegalOperation s

/-- Opcode 0xF (R57). -/
def execReservedF (s : State) : Result := raise .illegalOperation s

end Sys2Proof.Machine
end

