-- ==== Sys2Proof/Machine/Dispatch.lean ====
section
/-! DEFINITION. `Exec` opcode by opcode (00_scope.md R12; 30_encoding.md R54): one arm per command. -/

namespace Sys2Proof.Machine

def exec (i : Instr) (s : State) : Host.Outcome State Fault Refusal :=
  match i with
  | .bvPass a _ => Sys2Proof.Machine.execBvPass a s
  | .bvLen a _ => Sys2Proof.Machine.execBvLen a s
  | .bvGetbit a b => Sys2Proof.Machine.execBvGetbit a b s
  | .bvXor a b => Sys2Proof.Machine.execBvXor a b s
  | .bvShl a b => Sys2Proof.Machine.execBvShl a b s
  | .bvShr a b => Sys2Proof.Machine.execBvShr a b s
  | .feAdd a b => Sys2Proof.Machine.execFeAdd a b s
  | .feMul a b => Sys2Proof.Machine.execFeMul a b s
  | .f8Reduce a _ => Sys2Proof.Machine.execF8Reduce a s
  | .f8ReduceStrict a _ => Sys2Proof.Machine.execF8ReduceStrict a s
  | .f8Mul a b => Sys2Proof.Machine.execF8Mul a b s
  | .reservedB _ _ => Sys2Proof.Machine.execReservedB s
  | .reservedC _ _ => Sys2Proof.Machine.execReservedC s
  | .reservedD _ _ => Sys2Proof.Machine.execReservedD s
  | .reservedE _ _ => Sys2Proof.Machine.execReservedE s
  | .reservedF _ _ => Sys2Proof.Machine.execReservedF s

end Sys2Proof.Machine
end

