-- ==== Sys2Proof/WellFormed.lean ====
section
/-! DEFINITION. Which commands a host can present. Every term of `Instr` is well formed by its
type, since its fields have the widths of the ports. The checks stand on the host's side, where a
request is made of plain integers (00_scope.md R9; 93 U12): one that the ports cannot carry is
refused. -/

namespace Sys2Proof

/-- What a host asks for before it is put on the ports: an opcode and two integers (R9). -/
structure Request where
  op : Int
  a : Int
  b : Int
  deriving DecidableEq, Repr

/-- Why a request cannot be presented (R9, decision D3, U12). Refusing it is safe. -/
inductive RequestReject where
  /-- The opcode is no OP_W-bit unsigned integer. -/
  | opcodeNotRepresentable
  /-- Operand A is negative, or needs more than DATA_W bits. -/
  | operandANotRepresentable
  /-- Operand B is negative, or needs more than DATA_W bits. -/
  | operandBNotRepresentable
  deriving DecidableEq, Repr

/-- An integer fits an unsigned field of `w` bits (R9). -/
def fitsUnsigned (w : Nat) (v : Int) : Bool := decide (0 ≤ v) && decide (v < 2 ^ w)

/-- The checks on a request, in field order. -/
def Request.check (r : Request) : Except RequestReject Unit :=
  if fitsUnsigned Config.opW r.op = false then .error .opcodeNotRepresentable
  else if fitsUnsigned Config.dataW r.a = false then .error .operandANotRepresentable
  else if fitsUnsigned Config.dataW r.b = false then .error .operandBNotRepresentable
  else .ok ()

/-- A request the ports can carry (R9). -/
def Request.wellFormed (r : Request) : Bool :=
  fitsUnsigned Config.opW r.op && fitsUnsigned Config.dataW r.a && fitsUnsigned Config.dataW r.b

end Sys2Proof
end

