-- ==== Sys2Proof/Decode.lean ====
section
/-! DEFINITION. Command words to commands and back (30_encoding.md R50 to R57). -/

namespace Sys2Proof

/-- Why bits are no command word. Decoding a word of 36 bits never fails (R55). -/
inductive DecodeReject where
  /-- There is a bit at position 36 or above: the command ports have no such wire (R50). -/
  | widerThanCommandWord
  deriving DecidableEq, Repr

/-- op = CW[35:32] (R51). -/
def wordOp (w : CmdWord) : Opcode := w.extractLsb' 32 4

/-- A = CW[31:16] (R51). -/
def wordA (w : CmdWord) : Data := w.extractLsb' 16 16

/-- B = CW[15:0] (R51). -/
def wordB (w : CmdWord) : Data := w.extractLsb' 0 16

/-- The concatenation of the three command ports, `cmd_op` most significant (R50). -/
def mkWord (op : Opcode) (a b : Data) : CmdWord := op ++ a ++ b

/-- The opcode map R54. The four bits are written as in the table's encodings, op[3] first. -/
def decodeFields (op : Opcode) (a b : Data) : Instr :=
  match op.getLsbD 3, op.getLsbD 2, op.getLsbD 1, op.getLsbD 0 with
  | false, false, false, false => .bvPass a b
  | false, false, false, true => .bvLen a b
  | false, false, true, false => .bvGetbit a b
  | false, false, true, true => .bvXor a b
  | false, true, false, false => .bvShl a b
  | false, true, false, true => .bvShr a b
  | false, true, true, false => .feAdd a b
  | false, true, true, true => .feMul a b
  | true, false, false, false => .f8Reduce a b
  | true, false, false, true => .f8ReduceStrict a b
  | true, false, true, false => .f8Mul a b
  | true, false, true, true => .reservedB a b
  | true, true, false, false => .reservedC a b
  | true, true, false, true => .reservedD a b
  | true, true, true, false => .reservedE a b
  | true, true, true, true => .reservedF a b

/-- The command a word stands for. Total: every word has exactly one row of R54 (R55). -/
def decode (w : CmdWord) : Instr := decodeFields (wordOp w) (wordA w) (wordB w)

/-- Decoding of any bits given as a number, bit 0 least significant. -/
def decodeBits (w : Nat) : Except DecodeReject Instr :=
  if w < 2 ^ Config.cmdW then .ok (decode (BitVec.ofNat 36 w)) else .error .widerThanCommandWord

/-- The command's opcode (R54). -/
def Instr.opcode : Instr → Opcode
  | .bvPass _ _ => 0x0
  | .bvLen _ _ => 0x1
  | .bvGetbit _ _ => 0x2
  | .bvXor _ _ => 0x3
  | .bvShl _ _ => 0x4
  | .bvShr _ _ => 0x5
  | .feAdd _ _ => 0x6
  | .feMul _ _ => 0x7
  | .f8Reduce _ _ => 0x8
  | .f8ReduceStrict _ _ => 0x9
  | .f8Mul _ _ => 0xA
  | .reservedB _ _ => 0xB
  | .reservedC _ _ => 0xC
  | .reservedD _ _ => 0xD
  | .reservedE _ _ => 0xE
  | .reservedF _ _ => 0xF

/-- The word of a command (R50, R54). -/
def encode (i : Instr) : CmdWord := mkWord i.opcode i.fieldA i.fieldB

/-- The word a host presents for a request of plain integers; a request the ports cannot carry is
refused by name (R9, U12). -/
def Request.present (r : Request) : Except RequestReject CmdWord :=
  match r.check with
  | .error e => .error e
  | .ok () => .ok (mkWord (BitVec.ofInt 4 r.op) (BitVec.ofInt 16 r.a) (BitVec.ofInt 16 r.b))

/-- What the decoder reads from an opcode-table word. The table's word IS the command word: one
word of 36 bits, so no byte order arises (R41, R50). The bits above `nbits` are 0. -/
def decodeTableWord (nbits w : Nat) : Option Instr :=
  match decodeBits (w % 2 ^ nbits) with
  | .ok i => some i
  | .error _ => none

end Sys2Proof
end

