-- ==== Sys2Proof/Machine/Handshake.lean ====
section
/-! DEFINITION. The ports, the ready equation and what one rising edge does besides executing the
accepted command (10_state.md R20; 70_reset_and_hazards.md R150 to R158). -/

namespace Sys2Proof.Machine

/-- The command on the ports, if every wire of it is 0 or 1 (R50, R157). -/
def EdgeInput.command (e : EdgeInput) : Option CmdWord :=
  match e.cmdOp, e.cmdA, e.cmdB with
  | .driven op, .driven a, .driven b => some (mkWord op a b)
  | _, _, _ => none

/-- An edge at which the host does nothing: no reset, no command, no response taken (R144, log 1). -/
def EdgeInput.idle : EdgeInput where
  rst := false
  cmdValid := false
  cmdOp := .driven 0
  cmdA := .driven 0
  cmdB := .driven 0
  rspReady := false

/-- An edge at which the host resets the block (R151). -/
def EdgeInput.resetting : EdgeInput := { EdgeInput.idle with rst := true }

/-- An edge at which the host presents the command word `w` and is ready for a response (R20, R158). -/
def EdgeInput.present (w : CmdWord) : EdgeInput where
  rst := false
  cmdValid := true
  cmdOp := .driven (wordOp w)
  cmdA := .driven (wordA w)
  cmdB := .driven (wordB w)
  rspReady := true

/-- An edge at which the host only takes a response (R158). -/
def EdgeInput.taking : EdgeInput := { EdgeInput.idle with rspReady := true }

/-- What the ports carry at the coming edge: the head of the script, and an idle edge when the script has
ended (log 1). -/
def State.edge (s : State) : EdgeInput := s.inputs.headD EdgeInput.idle

/-- `cmd_ready`, combinational (R155). -/
def State.cmdReady (s : State) (e : EdgeInput) : Bool :=
  !e.rst && (!s.rspValid || e.rspReady)

/-- A command is accepted at this edge (R20, R156). -/
def State.accepts (s : State) (e : EdgeInput) : Bool := e.cmdValid && s.cmdReady e

/-- The response is taken at this edge (R20, R156). -/
def State.takes (s : State) (e : EdgeInput) : Bool := !e.rst && s.rspValid && e.rspReady

/-- The output ports of R20. -/
structure Outputs where
  cmdReady : Bool
  rspValid : Bool
  rspData : Data
  rspErr : ErrCode
  rspRed : Bool
  deriving DecidableEq, Repr

/-- What the output ports carry while the input ports carry `e` (R20, R21, R155). -/
def State.outputs (s : State) (e : EdgeInput) : Outputs :=
  ⟨s.cmdReady e, s.rspValid, s.rspData, s.rspErr, s.rspRed⟩

/-- The record with the outstanding command, if there is one at its head, settled as `f` (R162). -/
def settleOutstanding (f : Fate) : List Transaction → List Transaction
  | [] => []
  | t :: ts => if t.fate = .pending then { t with fate := f } :: ts else t :: ts

/-- The edge is over: its sample leaves the script. -/
def State.advance (s : State) : State := { s with inputs := s.inputs.tail }

/-- The host takes the response (R156, R158): `rsp_valid` falls and the other fields hold. -/
def State.takeResponse (s : State) : State :=
  { s with rspValid := false, log := settleOutstanding (.taken s.response) s.log }

/-- The host records that `i` was accepted (R44, R162). -/
def State.recordAccepted (s : State) (i : Instr) : State :=
  { s with log := ⟨i, .pending⟩ :: s.log }

/-- A reset edge (R151): the register takes its reset values, a response not yet taken is lost (R152). -/
def State.resetEdge (s : State) : State :=
  { s with rspValid := false, rspData := 0x0000, rspErr := 0, rspRed := false, booted := true,
           inputs := s.inputs.tail, log := settleOutstanding .lost s.log }

/-- The state after what the edge does besides loading a response: the sample consumed and, if the host
takes the response the register holds, that response taken (R156). -/
def State.afterTake (s : State) : State :=
  if s.takes s.edge then s.takeResponse.advance else s.advance

/-- The host uses the block before its first reset edge (R153, U4). -/
def State.usedTooEarly (s : State) : Bool :=
  !s.booted && (s.edge.cmdValid || s.edge.rspReady)

end Sys2Proof.Machine
end

