-- ==== Sys2Proof/Machine/Step.lean ====
section
/-! DEFINITION. One step is one rising edge of `clk` (70_reset_and_hazards.md R150, R156). -/

namespace Sys2Proof.Machine

/-- The update at a rising edge (R156). Reset has priority (R151). A command is computed from the ports
at the accepting edge and nothing else. -/
def step (s : State) : Host.Outcome State Fault Refusal :=
  if s.edge.rst then .next s.resetEdge
  else if s.usedTooEarly then .refused .usedBeforeFirstReset
  else if s.edge.cmdValid then
    match s.edge.command with
    | none => .refused .unknownCommandWire
    | some w =>
      if s.accepts s.edge then exec (decode w) (s.afterTake.recordAccepted (decode w))
      else .next s.afterTake
  else .next s.afterTake

/-- `s` with the command word `w` on the ports at the coming edge, and the host ready for a response, so
that the block is ready (R155) and accepts it. The samples already in the script come after it. The block
fetches nothing (R26, R47): a command comes to run by being presented (log 4). -/
def State.withFetchWord (s : State) (nbits w : Nat) : State :=
  { s with booted := true,
           inputs := EdgeInput.present (BitVec.ofNat 36 (w % 2 ^ nbits)) :: s.inputs }

end Sys2Proof.Machine
end

