-- ==== Sys2Proof/Machine/Assembler.lean ====
section
/-! DEFINITION. The assembler of the spec's test programs: one line to at most one command word
(30_encoding.md R59 to R62). -/

namespace Sys2Proof.Machine

/-- Why the assembler refuses a line; nothing is then sent (R59). -/
inductive AsmError where
  /-- The word is no mnemonic of R54 or R61. -/
  | unknownMnemonic
  /-- Not decimal, `0x` or `0b` digits (R60). -/
  | badLiteral
  /-- More operands than the mnemonic reads (R59). -/
  | tooManyOperands
  /-- An operand of 2^16 or more (R59). -/
  | operandOutOfRange
  /-- `.cmd` without exactly one literal (R59). -/
  | rawNeedsOneLiteral
  /-- A `.cmd` literal of 2^36 or more (R59). -/
  | rawOutOfRange
  deriving DecidableEq, Repr

/-- One mnemonic: its command's opcode, how many operands it reads, and whether its expansion puts the
one operand in both fields (R54, R61). -/
structure AsmRow where
  name : String
  op : Opcode
  arity : Nat
  squares : Bool
  deriving DecidableEq, Repr

/-- The commands (R54). -/
def commandRows : List AsmRow :=
  [⟨"BV_PASS", 0x0, 1, false⟩, ⟨"BV_LEN", 0x1, 1, false⟩, ⟨"BV_GETBIT", 0x2, 2, false⟩,
   ⟨"BV_XOR", 0x3, 2, false⟩, ⟨"BV_SHL", 0x4, 2, false⟩, ⟨"BV_SHR", 0x5, 2, false⟩,
   ⟨"FE_ADD", 0x6, 2, false⟩, ⟨"FE_MUL", 0x7, 2, false⟩, ⟨"F8_REDUCE", 0x8, 1, false⟩,
   ⟨"F8_REDUCE_STRICT", 0x9, 1, false⟩, ⟨"F8_MUL", 0xA, 2, false⟩]

/-- The pseudo-instructions with their expansions (R61). -/
def pseudoRows : List AsmRow :=
  [⟨"BV_COPY", 0x0, 1, false⟩, ⟨"BV_TOINT", 0x0, 1, false⟩, ⟨"FE_TOINT", 0x0, 1, false⟩,
   ⟨"FE_LEN", 0x1, 1, false⟩, ⟨"FE_GETBIT", 0x2, 2, false⟩, ⟨"FE_SUB", 0x6, 2, false⟩,
   ⟨"F8_CHECK", 0x9, 1, false⟩, ⟨"F8_SQR", 0xA, 1, true⟩]

/-- The row of a mnemonic, upper case only (R59). -/
def asmRow? (name : String) : Option AsmRow :=
  (commandRows ++ pseudoRows).find? (fun r => r.name == name)

/-- The word of a mnemonic and its operands. A missing operand is encoded as 0 (R62). -/
def assembleInstr (row : AsmRow) (operands : List Nat) : Except AsmError CmdWord :=
  if row.arity < operands.length then .error .tooManyOperands
  else if operands.any (fun v => decide (2 ^ Config.dataW ≤ v)) then .error .operandOutOfRange
  else
    let a := operands.getD 0 0
    let b := if row.squares then a else operands.getD 1 0
    .ok (mkWord row.op (BitVec.ofNat 16 a) (BitVec.ofNat 16 b))

/-- The value of a digit character in a base, if it is one; hexadecimal in either case (R60). -/
def digitValue? (base : Nat) (c : Char) : Option Nat :=
  let d :=
    if '0' ≤ c ∧ c ≤ '9' then some (c.toNat - '0'.toNat)
    else if 'a' ≤ c ∧ c ≤ 'f' then some (c.toNat - 'a'.toNat + 10)
    else if 'A' ≤ c ∧ c ≤ 'F' then some (c.toNat - 'A'.toNat + 10)
    else none
  d.filter (· < base)

/-- The number a run of digits stands for, most significant first, after the value `acc` so far. -/
def digitsValue? (base : Nat) : Nat → List Char → Option Nat
  | acc, [] => some acc
  | acc, c :: cs =>
    match digitValue? base c with
    | some d => digitsValue? base (acc * base + d) cs
    | none => none

/-- A literal: decimal, `0x` and hexadecimal, or `0b` and binary digits; at least one digit (R59, R60). -/
def literalValue? : List Char → Option Nat
  | '0' :: 'x' :: c :: cs => digitsValue? 16 0 (c :: cs)
  | '0' :: 'b' :: c :: cs => digitsValue? 2 0 (c :: cs)
  | c :: cs => digitsValue? 10 0 (c :: cs)
  | [] => none

/-- A space or a tab: what may stand around the parts of a line (log 7). -/
def isBlank (c : Char) : Bool := c == ' ' || c == '\t'

/-- A run of characters without the blanks at its two ends. -/
def trimBlanks (cs : List Char) : List Char :=
  ((cs.dropWhile isBlank).reverse.dropWhile isBlank).reverse

/-- The parts between the commas. -/
def splitCommas : List Char → List (List Char)
  | [] => [[]]
  | ',' :: cs => [] :: splitCommas cs
  | c :: cs =>
    match splitCommas cs with
    | p :: ps => (c :: p) :: ps
    | [] => [[c]]

/-- The literals after the mnemonic, separated by commas; none is allowed (R59). -/
def literals? (cs : List Char) : Option (List Nat) :=
  if trimBlanks cs = [] then some []
  else (splitCommas cs).mapM (fun p => literalValue? (trimBlanks p))

/-- One line to the command word it sends, or to nothing for a line without an instruction (R59). -/
def assembleLine (line : String) : Except AsmError (Option CmdWord) :=
  let body := trimBlanks (line.toList.takeWhile (· != ';'))
  if body = [] then .ok none
  else
    let word := body.takeWhile (fun c => !isBlank c)
    let rest := body.dropWhile (fun c => !isBlank c)
    if word = ".cmd".toList then
      match literals? rest with
      | some [v] => if v < 2 ^ Config.cmdW then .ok (some (BitVec.ofNat 36 v)) else .error .rawOutOfRange
      | some _ => .error .rawNeedsOneLiteral
      | none => .error .badLiteral
    else
      match asmRow? (String.ofList word) with
      | none => .error .unknownMnemonic
      | some row =>
        match literals? rest with
        | none => .error .badLiteral
        | some vs => (assembleInstr row vs).map some

end Sys2Proof.Machine
end

