-- ==== Sys2Proof/Machine/Rendering.lean ====
section
/-! DEFINITION. The host-side renderings of a response value (45_host_rendering.md R120 to R126). No
command computes them. Each is built as a list of characters or bits. -/

namespace Sys2Proof.Machine

/-- `iterate(v)`: the bits, least significant first, as many as the bit length (R125). -/
def iterate (v : Data) : List Bool := (List.range (blen v.toNat)).map v.toNat.testBit

/-- The character of a binary digit. -/
def bitChar (b : Bool) : Char := if b then '1' else '0'

/-- The characters of `to_binary_string(v)` (R121). -/
def binaryChars (v : Data) : List Char :=
  if v = 0 then ['0'] else (iterate v).reverse.map bitChar

/-- `to_binary_string(v)` (R121). -/
def toBinaryString (v : Data) : String := String.ofList (binaryChars v)

/-- The lowercase hexadecimal digit of `d < 16` (R122). -/
def hexChar (d : Nat) : Char := Nat.digitChar d

/-- The hexadecimal digits of `v`, `n` of them, most significant first. -/
def hexDigits (v : Nat) : Nat → List Char
  | 0 => []
  | n + 1 => hexChar ((v >>> (4 * n)) % 16) :: hexDigits v n

/-- The characters of `to_hex_string(v)`: no prefix, no leading zeros except "0" (R122). -/
def hexChars (v : Data) : List Char :=
  if v = 0 then ['0'] else hexDigits v.toNat ((blen v.toNat + 3) / 4)

/-- `to_hex_string(v)` (R122). -/
def toHexString (v : Data) : String := String.ofList (hexChars v)

/-- `f8_hex(v, prefixed)`: exactly FIELD_BITS / 4 digits, after F8_HEX_PREFIX if asked; a value of 256 or
more is refused (R123, U13). -/
def f8Hex (v : Data) (prefixed : Bool) : Except Refusal String :=
  if v.toNat < 2 ^ Config.fieldBits then
    let digits := String.ofList (hexDigits v.toNat (Config.fieldBits / 4))
    .ok (if prefixed then Config.f8HexPrefix ++ digits else digits)
  else .error .f8HexOfUnreducedValue

/-- The term of a set bit `i` (R124). -/
def polyTerm (i : Nat) : List Char :=
  if i = 0 then ['1'] else if i = 1 then ['x'] else 'x' :: '^' :: Nat.toDigits 10 i

/-- The positions of the set bits, highest first. -/
def setBitsDescending (v : Nat) : List Nat := ((List.range (blen v)).filter v.testBit).reverse

/-- The characters of `to_poly_string(v)` (R124, C2). -/
def polyChars (v : Data) : List Char :=
  List.intercalate [' ', '+', ' '] ((setBitsDescending v.toNat).map polyTerm)

/-- `to_poly_string(v)` (R124). -/
def toPolyString (v : Data) : String := String.ofList (polyChars v)

/-- `to_int(v) = v` (R126). -/
def toInt (v : Data) : Nat := v.toNat

end Sys2Proof.Machine
end

