-- ==== Sys2Proof/Machine/Datapath.lean ====
section
/-! DEFINITION. The three sub-blocks, at the width of their ports (10_state.md R31 to R33, 42 R103).
They are structural (R3): the meanings of the commands follow the family rules, and the statements
say that the sub-blocks compute the same. -/

namespace Sys2Proof.Machine

/-- The outputs of `bitvector_xor_and_shift` (R31). -/
structure BvOut where
  y : Data
  ovf : Bool
  len : BitVec 5
  bit : Bool
  oor : Bool
  deriving DecidableEq, Repr

/-- `bv_y` and `bv_ovf` by the select `bv_sel` (R31): 0 PASS, 1 XOR, 2 SHL, 3 SHR, 4 to 7 unused. -/
def bvSelect (sel : BitVec 3) (a b : Data) : Data × Bool :=
  if sel = 0 then (a, false)
  else if sel = 1 then (a ^^^ b, false)
  else if sel = 2 then
    if blen (a.toNat <<< b.toNat) > Config.dataW then (0, true)
    else (BitVec.ofNat 16 (a.toNat <<< b.toNat), false)
  else if sel = 3 then (a >>> b.toNat, false)
  else (0, false)

/-- `bitvector_xor_and_shift` (R31). -/
def bitvectorXorAndShift (sel : BitVec 3) (a b : Data) : BvOut where
  y := (bvSelect sel a b).1
  ovf := (bvSelect sel a b).2
  len := BitVec.ofNat 5 (blen a.toNat)
  bit := if b.toNat < blen a.toNat then a.getLsbD b.toNat else false
  oor := !decide (b.toNat < blen a.toNat)

/-- The carry-less multiplier over the bits `b[i]` with `i < n`: shifted copies of `a` from the SHL
function, combined by the XOR function, all 16 bits wide, with a sticky overflow (R33, R93). -/
def multiplierBelow (a b : Data) : Nat → Data × Bool
  | 0 => (0, false)
  | n + 1 =>
    let acc := multiplierBelow a b n
    if b.getLsbD n then
      let shifted := bitvectorXorAndShift 2 a (BitVec.ofNat 16 n)
      ((bitvectorXorAndShift 1 acc.1 shifted.y).y, acc.2 || shifted.ovf)
    else acc

/-- The carry-less multiplier: the 16-bit product and the overflow bit (R33). -/
def carrylessMultiplier (a b : Data) : Data × Bool := multiplierBelow a b 16

/-- One conditional XOR stage of the unrolled reduction engine, at bit position `i` (R103). -/
def engineStage (i : Nat) (st : Data × Bool) : Data × Bool :=
  if st.1.getLsbD i then (st.1 ^^^ (0x11B#16 <<< (i - 8)), true) else st

/-- `gf2_8_reduction_engine`: one unrolled pass of eight stages, positions 15 down to 8 (R32, R103). -/
def reductionEngine (v : Data) : BitVec 8 × Bool :=
  let st := engineStage 8 (engineStage 9 (engineStage 10 (engineStage 11
    (engineStage 12 (engineStage 13 (engineStage 14 (engineStage 15 (v, false))))))))
  (st.1.setWidth 8, st.2)

end Sys2Proof.Machine
end

