-- ==== Sys2Proof/Safety.lean ====
section
/-! DEFINITION. The terms in which claims are stated: what a command answers, what a run is, which states
are good, and the polynomial notions the rules speak of. -/

namespace Sys2Proof.Machine

/-- `Exec(op, A, B) = (data, err, red)` as a relation (R12): in every state the command completes and its
whole effect is to load `r` into the response register. -/
def Answers (i : Instr) (r : Response) : Prop := ∀ s : State, exec i s = .next (s.writeResponse r)

/-- The run so far, in acceptance order (R44, R162). -/
def State.transactions (s : State) : List Transaction := s.log.reverse

/-- The good states of block and host together (R44, R159, R162). -/
structure Inv (s : State) : Prop where
  /-- Every response the host took is `Exec` of the command it is paired with. -/
  taken_answers : ∀ t ∈ s.log, ∀ r, t.fate = .taken r → Answers t.cmd r
  /-- At most the newest command is outstanding. -/
  earlier_settled : ∀ t ∈ s.log.tail, t.fate ≠ .pending
  /-- Once booted, a response is held exactly when a command is outstanding. -/
  valid_iff_outstanding :
    s.booted = true → (s.rspValid = true ↔ ∃ i ts, s.log = ⟨i, .pending⟩ :: ts)
  /-- Once booted, the response held is `Exec` of the outstanding command. -/
  held_answers :
    s.booted = true → ∀ i ts, s.log = ⟨i, .pending⟩ :: ts → Answers i s.response

/-- The two states differ at most in response fields that no response stands in (R30). -/
def AgreeButStale (s t : State) : Prop :=
  s.rspValid = t.rspValid ∧ (s.rspValid = true → s.response = t.response) ∧
  s.booted = t.booted ∧ s.inputs = t.inputs ∧ s.log = t.log

/-- `r` is a remainder of `v` modulo REDUCTION_POLY, as polynomials over GF(2) (R101). -/
def IsRemainder (v r : Nat) : Prop :=
  blen r ≤ 8 ∧ ∃ q : Nat, v = clmul q 0x11B ^^^ r

/-- The XOR over all i + j = k of `a[i] & b[j]` (R92). -/
def convolutionBit (a b k : Nat) : Bool :=
  ((List.range (k + 1)).map (fun i => a.testBit i && b.testBit (k - i))).foldl Bool.xor false

/-- The product of two field elements, `polymod(clmul(a, b))` (R108). -/
def fieldMul (a b : Nat) : Nat := polymod (clmul a b)

/-- The error code each command must answer, by the conditions of R132's table and the codes of R130. -/
def errorCodeOf : Instr → ErrCode
  | .bvGetbit a b => if blen a.toNat ≤ b.toNat then 2 else 0
  | .bvShl a b => if a ≠ 0 ∧ 16 < blen a.toNat + b.toNat then 4 else 0
  | .feMul a b => if a ≠ 0 ∧ b ≠ 0 ∧ 16 < blen a.toNat + blen b.toNat - 1 then 4 else 0
  | .f8ReduceStrict a _ => if 256 ≤ a.toNat then 3 else 0
  | .f8Mul _ b => if 256 ≤ b.toNat then 3 else 0
  | .reservedB _ _ | .reservedC _ _ | .reservedD _ _ | .reservedE _ _ | .reservedF _ _ => 5
  | .bvPass _ _ | .bvLen _ _ | .bvXor _ _ | .bvShr _ _ | .feAdd _ _ | .f8Reduce _ _ => 0

/-- The reduction flag each command must answer: 1 exactly when the reduction step of F8_REDUCE, or that of
F8_MUL's product, changed the value (R23, R105, R107). -/
def reductionFlagOf : Instr → Bool
  | .f8Reduce a _ => decide (256 ≤ a.toNat)
  | .f8Mul a b => decide (b.toNat < 256 ∧ 256 ≤ clmul (polymod a.toNat) b.toNat)
  | .bvPass _ _ | .bvLen _ _ | .bvGetbit _ _ | .bvXor _ _ | .bvShl _ _ | .bvShr _ _ | .feAdd _ _
  | .feMul _ _ | .f8ReduceStrict _ _ | .reservedB _ _ | .reservedC _ _ | .reservedD _ _
  | .reservedE _ _ | .reservedF _ _ => false

/-- The host's inputs at an edge are defined: either no command is presented or every wire of it is 0 or
1 (R157). -/
def EdgeInput.defined (e : EdgeInput) : Bool := !e.cmdValid || e.command.isSome

/-- The number a row of digit values stands for, most significant first. -/
def readDigits (base : Nat) (ds : List Nat) : Nat := ds.foldl (fun acc d => acc * base + d) 0

end Sys2Proof.Machine
end

