-- ==== Sys2Proof/Certificates/Slice0/Obligations.lean ====
section
/-! DEFINITION. The statements about this model, from the numbered rules of the spec. -/

open Sys2Proof Sys2Proof.Machine

/-! ### Encoding -/

/-- Words written out in 30_encoding.md R62 and in the family rules' examples decode to the commands they
stand for. -/
def Obligations.PublishedWordsDecodeToTheirCommands : Prop :=
  decode 0x0_00AF_0000 = .bvPass 175 0 ∧ decode 0x1_00AF_0000 = .bvLen 175 0 ∧
  decode 0x2_00AF_0004 = .bvGetbit 175 4 ∧ decode 0x4_00AF_0001 = .bvShl 175 1 ∧
  decode 0x7_00AF_0003 = .feMul 175 3 ∧ decode 0x9_012C_0000 = .f8ReduceStrict 300 0 ∧
  decode 0xA_00AF_0003 = .f8Mul 0xAF 3 ∧ decode 0xD_1234_5678 = .reservedD 0x1234 0x5678

/-- R54: the opcode field alone selects the command, by the map of R54; 0xB to 0xF are the reserved rows. -/
def Obligations.OpcodeFieldAloneSelectsTheCommand : Prop :=
  ∀ a b : Data,
    decode (mkWord 0x0 a b) = .bvPass a b ∧ decode (mkWord 0x1 a b) = .bvLen a b ∧
    decode (mkWord 0x2 a b) = .bvGetbit a b ∧ decode (mkWord 0x3 a b) = .bvXor a b ∧
    decode (mkWord 0x4 a b) = .bvShl a b ∧ decode (mkWord 0x5 a b) = .bvShr a b ∧
    decode (mkWord 0x6 a b) = .feAdd a b ∧ decode (mkWord 0x7 a b) = .feMul a b ∧
    decode (mkWord 0x8 a b) = .f8Reduce a b ∧ decode (mkWord 0x9 a b) = .f8ReduceStrict a b ∧
    decode (mkWord 0xA a b) = .f8Mul a b ∧ decode (mkWord 0xB a b) = .reservedB a b ∧
    decode (mkWord 0xC a b) = .reservedC a b ∧ decode (mkWord 0xD a b) = .reservedD a b ∧
    decode (mkWord 0xE a b) = .reservedE a b ∧ decode (mkWord 0xF a b) = .reservedF a b

/-- R51: op = CW[35:32], A = CW[31:16], B = CW[15:0], each an unsigned integer, and the decoded command
carries exactly these fields. -/
def Obligations.DecodedFieldsAreTheBitsOfTheWord : Prop :=
  ∀ w : CmdWord,
    (decode w).opcode.toNat = w.toNat / 2 ^ 32 ∧
    (decode w).fieldA.toNat = w.toNat / 2 ^ 16 % 2 ^ 16 ∧
    (decode w).fieldB.toNat = w.toNat % 2 ^ 16

/-- Decoding an encoded command gives it back, for every command and all operand values (R50, R54). -/
def Obligations.DecodeOfEncodeIsTheCommand : Prop := ∀ i : Instr, decode (encode i) = i

/-- Encoding a decoded word gives it back: every one of the 2^36 words stands for exactly one command, and
no bit of it is dropped (R55). -/
def Obligations.EncodeOfDecodeIsTheWord : Prop := ∀ w : CmdWord, encode (decode w) = w

/-- R9: a request of plain integers is presented exactly when the ports can carry it, and then its fields
arrive unchanged; any other is refused (decision D3, 93 U12). -/
def Obligations.RequestsBeyondThePortsAreRefused : Prop :=
  ∀ r : Request,
    (r.wellFormed = false → ∃ e, r.present = .error e) ∧
    (r.wellFormed = true → ∃ w, r.present = .ok w ∧ ((wordOp w).toNat : Int) = r.op ∧
      ((wordA w).toNat : Int) = r.a ∧ ((wordB w).toNat : Int) = r.b)

/-! ### Every command: completion, frame, purity, errors, flag -/

/-- At an accepting edge, step is the execution of the decoded command; around it step only consumes the
port sample (log 1), lets the host take the response it is ready for, and records the acceptance (the
model's record, log 3). -/
def Obligations.StepRunsTheDecodedCommand : Prop :=
  ∀ (s : State) (e : EdgeInput) (rest : List EdgeInput) (w : CmdWord) (i : Instr),
    s.booted = true → s.inputs = e :: rest → e.rst = false → e.cmdValid = true →
    e.command = some w → decode w = i → s.cmdReady e = true →
    step s = exec i (s.afterTake.recordAccepted i) ∧
    s.afterTake =
      { s with
        inputs := rest
        rspValid := if s.rspValid && e.rspReady then false else s.rspValid
        log := if s.rspValid && e.rspReady then settleOutstanding (.taken s.response) s.log else s.log }

/-- R21, R22: every command, in every state, completes with a response standing (rsp_valid = 1) and changes
nothing outside the response register. Which response it loads is the matter of the statements after this
one. -/
def Obligations.EveryCommandChangesOnlyTheResponseRegister : Prop :=
  ∀ (i : Instr) (s : State), ∃ t : State, exec i s = .next t ∧
    t.rspValid = true ∧ t.booted = s.booted ∧ t.inputs = s.inputs ∧ t.log = s.log

/-- R12: a command's response is a function of the command alone, whatever state it runs in. -/
def Obligations.ResponseDependsOnTheCommandAlone : Prop :=
  ∀ i : Instr, ∃ r : Response, ∀ s : State, exec i s = .next (s.writeResponse r)

/-- R53: operand fields a command does not read make no difference; a reserved opcode ignores both. -/
def Obligations.IgnoredOperandFieldsMakeNoDifference : Prop :=
  ∀ (a b a' b' : Data) (s : State),
    exec (.bvPass a b) s = exec (.bvPass a b') s ∧
    exec (.bvLen a b) s = exec (.bvLen a b') s ∧
    exec (.f8Reduce a b) s = exec (.f8Reduce a b') s ∧
    exec (.f8ReduceStrict a b) s = exec (.f8ReduceStrict a b') s ∧
    exec (.reservedB a b) s = exec (.reservedB a' b') s ∧
    exec (.reservedC a b) s = exec (.reservedC a' b') s ∧
    exec (.reservedD a b) s = exec (.reservedD a' b') s ∧
    exec (.reservedE a b) s = exec (.reservedE a' b') s ∧
    exec (.reservedF a b) s = exec (.reservedF a' b') s

/-- R131: a command that raises an error answers `respond(0, code(E), 0)`, so nothing of a partial result
shows; the rest of the state stays. -/
def Obligations.ErrorResponsesCarryNoPartialResult : Prop :=
  ∀ (i : Instr) (s : State), errorCodeOf i ≠ 0 → exec i s =
    .next { s with rspValid := true, rspData := 0, rspErr := errorCodeOf i, rspRed := false }

/-- R132 with the codes of R130: which error each command answers, and on exactly which operands. So codes
1, 6 and 7 never occur. -/
def Obligations.ErrorCodeFollowsTheConditionTable : Prop :=
  ∀ (i : Instr) (s : State), ∃ t : State, exec i s = .next t ∧ t.rspErr = errorCodeOf i

/-- R23: the flag is 1 exactly for an F8_REDUCE or a successful F8_MUL whose reduction step changed the
value. -/
def Obligations.ReductionFlagMarksAReductionThatChangedTheValue : Prop :=
  ∀ (i : Instr) (s : State), ∃ t : State, exec i s = .next t ∧ t.rspRed = reductionFlagOf i

/-! ### The commands one by one: result, flags and frame -/

/-- R71: BV_PASS. -/
def Obligations.BvPassReturnsItsOperand : Prop :=
  ∀ (a b : Data) (s : State), exec (.bvPass a b) s =
    .next { s with rspValid := true, rspData := a, rspErr := 0, rspRed := false }

/-- R72: BV_LEN returns the number of bits needed to represent A, 0 for A = 0, at most 16. -/
def Obligations.BvLenReturnsTheLeastWidth : Prop :=
  ∀ (a b : Data) (s : State), ∃ n : Nat,
    n ≤ 16 ∧ a.toNat < 2 ^ n ∧ (∀ m, a.toNat < 2 ^ m → n ≤ m) ∧ n = blen a.toNat ∧
    exec (.bvLen a b) s =
      .next { s with rspValid := true, rspData := BitVec.ofNat 16 n, rspErr := 0, rspRed := false }

/-- R73: BV_GETBIT returns bit B of A if B is below the bit length, else IndexOutOfRange. -/
def Obligations.BvGetbitReturnsTheBitBelowTheBitLength : Prop :=
  ∀ (a b : Data) (s : State),
    (b.toNat < blen a.toNat → exec (.bvGetbit a b) s =
      .next { s with rspValid := true, rspData := if a.getLsbD b.toNat then 1 else 0,
                     rspErr := 0, rspRed := false }) ∧
    (¬ b.toNat < blen a.toNat → exec (.bvGetbit a b) s =
      .next { s with rspValid := true, rspData := 0, rspErr := 2, rspRed := false })

/-- R74: BV_XOR. -/
def Obligations.BvXorReturnsTheBitwiseXor : Prop :=
  ∀ (a b : Data) (s : State), exec (.bvXor a b) s =
    .next { s with rspValid := true, rspData := a ^^^ b, rspErr := 0, rspRed := false }

/-- R75: BV_SHL returns the exact A · 2^B, or RangeOverflow when that needs more than 16 bits; the amount
is not taken modulo anything. -/
def Obligations.BvShlReturnsTheExactShiftOrOverflows : Prop :=
  ∀ (a b : Data) (s : State),
    (a = 0 ∨ blen a.toNat + b.toNat ≤ 16 → ∃ d : Data, d.toNat = a.toNat * 2 ^ b.toNat ∧
      exec (.bvShl a b) s =
        .next { s with rspValid := true, rspData := d, rspErr := 0, rspRed := false }) ∧
    (a ≠ 0 → 16 < blen a.toNat + b.toNat → exec (.bvShl a b) s =
      .next { s with rspValid := true, rspData := 0, rspErr := 4, rspRed := false })

/-- R76: BV_SHR returns floor(A / 2^B). -/
def Obligations.BvShrReturnsTheFloorOfTheQuotient : Prop :=
  ∀ (a b : Data) (s : State), ∃ d : Data, d.toNat = a.toNat / 2 ^ b.toNat ∧
    exec (.bvShr a b) s =
      .next { s with rspValid := true, rspData := d, rspErr := 0, rspRed := false }

/-- R91: FE_ADD. -/
def Obligations.FeAddReturnsTheFieldSum : Prop :=
  ∀ (a b : Data) (s : State), exec (.feAdd a b) s =
    .next { s with rspValid := true, rspData := a ^^^ b, rspErr := 0, rspRed := false }

/-- R94: FE_MUL returns the exact carry-less product, unreduced, or RangeOverflow when it needs more than 16
bits, which is when neither operand is 0 and the bit lengths add up to more than 17. -/
def Obligations.FeMulReturnsTheExactProductOrOverflows : Prop :=
  ∀ (a b : Data) (s : State),
    (a = 0 ∨ b = 0 ∨ blen a.toNat + blen b.toNat - 1 ≤ 16 →
      ∃ d : Data, d.toNat = clmul a.toNat b.toNat ∧ exec (.feMul a b) s =
        .next { s with rspValid := true, rspData := d, rspErr := 0, rspRed := false }) ∧
    (a ≠ 0 → b ≠ 0 → 16 < blen a.toNat + blen b.toNat - 1 →
      16 < blen (clmul a.toNat b.toNat) ∧ exec (.feMul a b) s =
        .next { s with rspValid := true, rspData := 0, rspErr := 4, rspRed := false })

/-- R105: F8_REDUCE returns the remainder of A modulo the field polynomial, with the flag 1 iff A ≥ 256. -/
def Obligations.F8ReduceReturnsTheRemainder : Prop :=
  ∀ (a b : Data) (s : State), ∃ r : Data, IsRemainder a.toNat r.toNat ∧
    exec (.f8Reduce a b) s =
      .next { s with rspValid := true, rspData := r, rspErr := 0, rspRed := decide (256 ≤ a.toNat) }

/-- R106: F8_REDUCE_STRICT returns A if A < 256, else InvariantViolation. -/
def Obligations.F8ReduceStrictReturnsAFieldElementOrRefusesIt : Prop :=
  ∀ (a b : Data) (s : State),
    (a.toNat < 256 → exec (.f8ReduceStrict a b) s =
      .next { s with rspValid := true, rspData := a, rspErr := 0, rspRed := false }) ∧
    (256 ≤ a.toNat → exec (.f8ReduceStrict a b) s =
      .next { s with rspValid := true, rspData := 0, rspErr := 3, rspRed := false })

/-- R107: F8_MUL. B of 256 or more is InvariantViolation whatever A is; otherwise A is reduced, the data is
the remainder of the product, and the flag says whether the product was 256 or more. -/
def Obligations.F8MulReturnsTheReducedProduct : Prop :=
  ∀ (a b : Data) (s : State),
    (256 ≤ b.toNat → exec (.f8Mul a b) s =
      .next { s with rspValid := true, rspData := 0, rspErr := 3, rspRed := false }) ∧
    (b.toNat < 256 → ∃ sf p : Nat, ∃ r : Data,
      IsRemainder a.toNat sf ∧ p = clmul sf b.toNat ∧ blen p ≤ 15 ∧ IsRemainder p r.toNat ∧
      exec (.f8Mul a b) s =
        .next { s with rspValid := true, rspData := r, rspErr := 0, rspRed := decide (256 ≤ p) })

/-- R57: the reserved opcodes answer IllegalOperation, whatever A and B are, and change nothing else. -/
def Obligations.ReservedOpcodesAnswerIllegalOperation : Prop :=
  ∀ (a b : Data) (s : State),
    exec (.reservedB a b) s =
      .next { s with rspValid := true, rspData := 0, rspErr := 5, rspRed := false } ∧
    exec (.reservedC a b) s =
      .next { s with rspValid := true, rspData := 0, rspErr := 5, rspRed := false } ∧
    exec (.reservedD a b) s =
      .next { s with rspValid := true, rspData := 0, rspErr := 5, rspRed := false } ∧
    exec (.reservedE a b) s =
      .next { s with rspValid := true, rspData := 0, rspErr := 5, rspRed := false } ∧
    exec (.reservedF a b) s =
      .next { s with rspValid := true, rspData := 0, rspErr := 5, rspRed := false }

/-! ### Laws of the families -/

/-- R77, at the command port. -/
def Obligations.XorCommandLaws : Prop :=
  ∀ (a b c : Data) (s : State),
    exec (.bvXor a b) s = exec (.bvXor b a) s ∧
    exec (.bvXor (a ^^^ b) c) s = exec (.bvXor a (b ^^^ c)) s ∧
    exec (.bvXor a 0) s = exec (.bvPass a 0) s ∧
    exec (.bvXor a a) s = exec (.bvPass 0 0) s ∧
    exec (.bvXor (a ^^^ b) b) s = exec (.bvPass a 0) s ∧
    exec (.feAdd a b) s = exec (.bvXor a b) s

/-- R78: the bit-length laws. -/
def Obligations.BitLengthLaws : Prop :=
  ∀ a b n : Nat,
    blen (a ^^^ b) ≤ max (blen a) (blen b) ∧
    (blen a ≠ blen b → blen (a ^^^ b) = max (blen a) (blen b)) ∧
    (a ≠ 0 → blen (a <<< n) = blen a + n) ∧
    blen (a >>> n) = blen a - n ∧
    (a ≠ 0 → blen a = Nat.clog 2 (a + 1))

/-- R92: bit k of the product is the XOR over all i + j = k of a[i] & b[j]. -/
def Obligations.CarrylessProductIsTheConvolution : Prop :=
  ∀ a b k : Nat, (clmul a b).testBit k = convolutionBit a b k

/-- R93: the bit length of the product. -/
def Obligations.CarrylessProductBitLength : Prop :=
  ∀ a b : Nat,
    (a ≠ 0 → b ≠ 0 → blen (clmul a b) = blen a + blen b - 1) ∧
    (a = 0 ∨ b = 0 → clmul a b = 0)

/-- R95: the product is a commutative ring product over XOR, and is not the integer product. -/
def Obligations.CarrylessProductLaws : Prop :=
  (∀ a b c : Nat,
    clmul a b = clmul b a ∧ clmul a (b ^^^ c) = clmul a b ^^^ clmul a c ∧
    clmul (clmul a b) c = clmul a (clmul b c) ∧ clmul a 1 = a ∧ clmul a 0 = 0) ∧
  clmul 3 3 = 5

/-- R94 corner cases (c) and (h): FE_MUL by a power of two is BV_SHL, in data and error, and FE_MUL is
commutative. -/
def Obligations.FeMulByAPowerOfTwoIsBvShl : Prop :=
  (∀ (a : Data) (k : Nat) (s : State), k < 16 →
    exec (.feMul a (BitVec.ofNat 16 (2 ^ k))) s = exec (.bvShl a (BitVec.ofNat 16 k)) s) ∧
  (∀ (a b : Data) (s : State), exec (.feMul a b) s = exec (.feMul b a) s)

/-- R101: polymod(v) is the one remainder of v, and is v itself below 256. -/
def Obligations.PolymodIsTheUniqueRemainder : Prop :=
  ∀ v : Nat, (∀ r, IsRemainder v r ↔ r = polymod v) ∧ (v < 256 → polymod v = v)

/-- R103: with the current-value reading one pass suffices, and the snapshot reading gives the same value
and flag, for every 16-bit input. -/
def Obligations.OneReductionPassSuffices : Prop :=
  ∀ v : Nat, v < 2 ^ 16 →
    reducePass (blen v - 8) (v, false) = reduce v ∧ reduceSnapshot v = reduce v

/-- R104: the reduction flag is 1 iff v ≥ 256, and then the value changed. -/
def Obligations.ReductionFlagIsTheSizeTest : Prop :=
  ∀ v : Nat, (reduce v).2 = decide (256 ≤ v) ∧ ((reduce v).2 = true ↔ polymod v ≠ v)

/-- R108: for field elements, F8_MUL succeeds, is closed, commutative in the whole response, associative,
distributive over XOR, with identity 1 and absorbing element 0. -/
def Obligations.FieldMultiplicationLaws : Prop :=
  ∀ a b c : Data, a.toNat < 256 → b.toNat < 256 → c.toNat < 256 →
    (∀ s : State, exec (.f8Mul a b) s = exec (.f8Mul b a) s ∧
      ∃ t : State, exec (.f8Mul a b) s = .next t ∧ t.rspErr = 0 ∧
        t.rspData.toNat = fieldMul a.toNat b.toNat) ∧
    fieldMul a.toNat b.toNat < 256 ∧
    fieldMul (fieldMul a.toNat b.toNat) c.toNat = fieldMul a.toNat (fieldMul b.toNat c.toNat) ∧
    fieldMul a.toNat (b.toNat ^^^ c.toNat) =
      fieldMul a.toNat b.toNat ^^^ fieldMul a.toNat c.toNat ∧
    fieldMul a.toNat 1 = a.toNat ∧ fieldMul a.toNat 0 = 0

/-- PR-10 of 95_test_vectors.md: every nonzero field element has exactly one multiplicative inverse under
F8_MUL. -/
def Obligations.EveryNonzeroFieldElementHasOneInverse : Prop :=
  ∀ a : Data, a.toNat < 256 → a ≠ 0 →
    ∃ b : Data, (b.toNat < 256 ∧ ∃ f, Answers (.f8Mul a b) ⟨1, 0, f⟩) ∧
      ∀ c : Data, c.toNat < 256 → (∃ f, Answers (.f8Mul a c) ⟨1, 0, f⟩) → c = b

/-- R108, last sentence, at the command port: on field elements, F8_MUL answers what F8_REDUCE answers to
the data of FE_MUL. -/
def Obligations.F8MulIsFeMulThenF8Reduce : Prop :=
  ∀ (a b : Data) (s : State), a.toNat < 256 → b.toNat < 256 →
    ∃ t : State, exec (.feMul a b) s = .next t ∧ t.rspErr = 0 ∧
      exec (.f8Mul a b) s = exec (.f8Reduce t.rspData 0) s

/-! ### The sub-blocks -/

/-- R31 against R71 to R76: the six BitVector commands answer what the ports of bitvector_xor_and_shift
show. -/
def Obligations.BitVectorCommandsAreTheDatapathOutputs : Prop :=
  ∀ (a b : Data) (s : State),
    exec (.bvPass a b) s = .next (s.writeResponse ⟨(bitvectorXorAndShift 0 a b).y, 0, false⟩) ∧
    exec (.bvLen a b) s =
      .next (s.writeResponse ⟨(bitvectorXorAndShift 0 a b).len.setWidth 16, 0, false⟩) ∧
    exec (.bvGetbit a b) s =
      (if (bitvectorXorAndShift 0 a b).oor then .next (s.writeResponse ⟨0, 2, false⟩)
       else .next (s.writeResponse ⟨if (bitvectorXorAndShift 0 a b).bit then 1 else 0, 0, false⟩)) ∧
    exec (.bvXor a b) s = .next (s.writeResponse ⟨(bitvectorXorAndShift 1 a b).y, 0, false⟩) ∧
    exec (.bvShl a b) s =
      (if (bitvectorXorAndShift 2 a b).ovf then .next (s.writeResponse ⟨0, 4, false⟩)
       else .next (s.writeResponse ⟨(bitvectorXorAndShift 2 a b).y, 0, false⟩)) ∧
    exec (.bvShr a b) s = .next (s.writeResponse ⟨(bitvectorXorAndShift 3 a b).y, 0, false⟩)

/-- R33: the 16-bit multiplier built from the XOR and SHL functions computes clmul, and its overflow bit
says exactly when the product needs more than 16 bits. -/
def Obligations.MultiplierDatapathComputesTheCarrylessProduct : Prop :=
  ∀ a b : Data,
    (carrylessMultiplier a b).2 = decide (16 < blen (clmul a.toNat b.toNat)) ∧
    ((carrylessMultiplier a b).2 = false →
      (carrylessMultiplier a b).1.toNat = clmul a.toNat b.toNat)

/-- R32: the unrolled engine computes polymod and the flag re_v ≥ 256, as the algorithm of R102 does. -/
def Obligations.ReductionEngineComputesPolymod : Prop :=
  ∀ v : Data,
    (reductionEngine v).1.toNat = polymod v.toNat ∧
    (reductionEngine v).2 = decide (256 ≤ v.toNat) ∧
    ((reductionEngine v).1.toNat, (reductionEngine v).2) = reduce v.toNat

/-! ### Reset and handshake -/

/-- R34: the reset value of every piece of state, and the hardwired constants (log 8 for the fields read while
rsp_valid = 0). -/
def Obligations.ResetStateHoldsTheSpecsValues : Prop :=
  State.reset.rspValid = false ∧ State.reset.rspData = 0x0000 ∧ State.reset.rspErr = 0 ∧
  State.reset.rspRed = false ∧ Config.fieldBits = 8 ∧ Config.reductionPoly = 0x11B ∧
  ∀ e : EdgeInput, e.rst = true → State.reset.cmdReady e = false

/-- R151: at every edge with rst = 1, whatever the state and the other inputs, the register takes its reset
values. Here as in R34 and R156 the fields are read while rsp_valid = 0, as those rules do (log 8). -/
def Obligations.ResetEdgeLoadsTheResetValues : Prop :=
  ∀ (s : State) (e : EdgeInput) (rest : List EdgeInput),
    s.inputs = e :: rest → e.rst = true →
    ∃ t : State, step s = .next t ∧ t.rspValid = false ∧ t.rspData = 0x0000 ∧ t.rspErr = 0 ∧
      t.rspRed = false

/-- R152: during reset no command is accepted, and a response not yet taken is discarded: its command is
paired with no response. The record and the booted bit are the model's (logs 2, 3). -/
def Obligations.ResetDiscardsTheResponseAndAcceptsNothing : Prop :=
  ∀ (s : State) (e : EdgeInput) (rest : List EdgeInput),
    s.inputs = e :: rest → e.rst = true →
    s.cmdReady e = false ∧ s.accepts e = false ∧ s.takes e = false ∧
    ∃ t : State, step s = .next t ∧ t.rspValid = false ∧ t.booted = true ∧ t.inputs = rest ∧
      (∀ i ts, s.log = ⟨i, .pending⟩ :: ts → t.log = ⟨i, .lost⟩ :: ts) ∧
      ((∀ i ts, s.log ≠ ⟨i, .pending⟩ :: ts) → t.log = s.log)

/-- R153: whatever the registers hold at power-up, one reset edge is enough, and the first command can be
accepted at the first edge with rst = 0. The power-up state and the record are the model's (logs 2, 3). -/
def Obligations.OneResetEdgeBootsTheBlock : Prop :=
  ∀ (e : EdgeInput) (w : CmdWord), e.rst = true →
    ∃ (t : State) (r : Response), Answers (decode w) r ∧
      Sys2Proof.core.run 2 { State.powerUp with inputs := [e, EdgeInput.present w] } = .next t ∧
      t.rspValid = true ∧ t.response = r ∧ t.log = [⟨decode w, .pending⟩]

/-- R155: the ready equation. -/
def Obligations.ReadyEquation : Prop :=
  ∀ (s : State) (e : EdgeInput),
    s.cmdReady e = true ↔ e.rst = false ∧ (s.rspValid = false ∨ e.rspReady = true)

/-- R156: the update at each rising edge, which is the whole sequential behaviour of the block. The
hypotheses are that the block is booted (U4) and that a presented command has no unknown wire (R157). -/
def Obligations.EdgeUpdate : Prop :=
  ∀ (s : State) (e : EdgeInput) (rest : List EdgeInput),
    s.booted = true → s.inputs = e :: rest → e.defined = true →
    ∃ t : State, step s = .next t ∧
      (e.rst = true → t.rspValid = false ∧ t.rspData = 0 ∧ t.rspErr = 0 ∧ t.rspRed = false) ∧
      (e.rst = false → s.accepts e = true → t.rspValid = true ∧
        ∃ w, e.command = some w ∧ Answers (decode w) t.response) ∧
      (e.rst = false → s.accepts e = false → s.takes e = true →
        t.rspValid = false ∧ t.rspData = s.rspData ∧ t.rspErr = s.rspErr ∧ t.rspRed = s.rspRed) ∧
      (e.rst = false → s.accepts e = false → s.takes e = false →
        t.rspValid = s.rspValid ∧ t.rspData = s.rspData ∧ t.rspErr = s.rspErr ∧
        t.rspRed = s.rspRed) ∧
      (s.accepts e = (e.cmdValid && s.cmdReady e)) ∧
      (e.rst = false → s.takes e = (s.rspValid && e.rspReady))

/-- What an edge without reset and without an accepted command does to the model's own fields (logs 1, 2,
3): one sample is consumed, and a response the host takes settles the outstanding command. -/
def Obligations.EdgeWithoutAcceptanceRecordsOnlyTheTake : Prop :=
  ∀ (s : State) (e : EdgeInput) (rest : List EdgeInput),
    s.booted = true → s.inputs = e :: rest → e.defined = true → e.rst = false →
    s.accepts e = false →
    ∃ t : State, step s = .next t ∧ t.inputs = rest ∧ t.booted = true ∧
      (s.takes e = false → t.log = s.log) ∧
      (s.takes e = true → ∀ i ts, s.log = ⟨i, .pending⟩ :: ts →
        t.log = ⟨i, .taken s.response⟩ :: ts)

/-- R159: a held response stays, whatever else the host does, until it is taken or reset comes. -/
def Obligations.ResponseStaysUntilTakenOrReset : Prop :=
  ∀ (s : State) (e : EdgeInput) (rest : List EdgeInput),
    s.booted = true → s.rspValid = true → s.inputs = e :: rest → e.defined = true →
    e.rst = false → e.rspReady = false → step s = .next { s with inputs := rest }

/-- R157, last sentence, and 93 U9: a presented command with an unknown wire is refused, at a stalled edge
too (the model's reading, log 9). -/
def Obligations.CommandsWithUnknownWiresAreRefused : Prop :=
  ∀ (s : State) (e : EdgeInput) (rest : List EdgeInput),
    s.booted = true → s.inputs = e :: rest → e.rst = false → e.cmdValid = true →
    (e.cmdOp = .unknown ∨ e.cmdA = .unknown ∨ e.cmdB = .unknown) →
    step s = .refused .unknownCommandWire

/-- A step never faults, and refuses in exactly two cases: use before the first reset edge (93 U4; the model's
reading, log 2), and a presented command with an unknown wire (R157; log 9). -/
def Obligations.StepStopsOnlyWhereTheSpecRefuses : Prop :=
  ∀ s : State,
    ((∃ t, step s = .next t) ∨
     (step s = .refused .usedBeforeFirstReset ∧ s.booted = false ∧ s.edge.rst = false ∧
       (s.edge.cmdValid = true ∨ s.edge.rspReady = true)) ∨
     (step s = .refused .unknownCommandWire ∧ s.booted = true ∧ s.edge.rst = false ∧
       s.edge.cmdValid = true ∧ s.edge.command = none)) ∧
    (s.booted = false → s.edge.rst = false → (s.edge.cmdValid = true ∨ s.edge.rspReady = true) →
      step s = .refused .usedBeforeFirstReset)

/-- R158 and 93 U10: while the host takes nothing, the block accepts nothing more and holds its response,
for as many edges as the script has. -/
def Obligations.HostThatNeverTakesStallsTheBlock : Prop :=
  ∀ (n : Nat) (s : State), n ≤ s.inputs.length → s.booted = true → s.rspValid = true →
    (∀ e ∈ s.inputs, e.rst = false ∧ e.rspReady = false ∧ e.defined = true) →
    Sys2Proof.core.run n s = .next { s with inputs := s.inputs.drop n }

/-- R30: the response fields carry no information while rsp_valid = 0. Two states that differ only in them
stop alike, or go on to states that differ only in such fields. -/
def Obligations.StaleResponseFieldsCarryNoInformation : Prop :=
  ∀ s t : State, AgreeButStale s t →
    (∃ s' t', step s = .next s' ∧ step t = .next t' ∧ AgreeButStale s' t') ∨
    (∃ r, step s = .refused r ∧ step t = .refused r)

/-- R44, R162: every step keeps the invariant that responses answer their own commands, in order, with at
most one outstanding. The record is the model's (log 3). -/
def Obligations.StepKeepsResponsesPairedWithTheirCommands : Prop :=
  ∀ s t : State, Inv s → step s = .next t → Inv t

/-- The invariant holds after reset and at power-up, whatever the registers then hold. -/
def Obligations.ResetAndPowerUpMeetTheInvariant : Prop :=
  Inv State.reset ∧ Inv State.powerUp

/-- R160, R161: with rsp_ready held at 1, commands presented back to back are accepted one at every edge,
and one more edge later the host has taken, in order, the answer of each. The script of port samples (log 1) and the record (log 3) are the model's. -/
def Obligations.BackToBackCommandsAreAllAnsweredInOrder : Prop :=
  ∀ (s : State) (ws : List CmdWord),
    s.booted = true → s.rspValid = false →
    s.inputs = ws.map EdgeInput.present ++ [EdgeInput.taking] →
    ∃ (t : State) (rs : List Response),
      Sys2Proof.core.run (ws.length + 1) s = .next t ∧ t.rspValid = false ∧ t.inputs = [] ∧
      List.Forall₂ Answers (ws.map decode) rs ∧
      t.transactions =
        s.transactions ++ List.zipWith (fun w r => ⟨decode w, .taken r⟩) ws rs

/-! ### Host-side renderings and assembler -/

/-- R121, R122: the binary and hexadecimal strings are the digits of the value, with no leading zero, and
"0" for 0. -/
def Obligations.DigitStringsReadBack : Prop :=
  (toBinaryString 0 = "0" ∧ toHexString 0 = "0") ∧
  ∀ v : Data, v ≠ 0 →
    (∃ ds : List Nat, ds.length = blen v.toNat ∧ (∀ d ∈ ds, d < 2) ∧ ds.head? ≠ some 0 ∧
      readDigits 2 ds = v.toNat ∧ toBinaryString v = String.ofList (ds.map Nat.digitChar)) ∧
    (∃ ds : List Nat, (∀ d ∈ ds, d < 16) ∧ ds.head? ≠ some 0 ∧
      readDigits 16 ds = v.toNat ∧ toHexString v = String.ofList (ds.map Nat.digitChar))

/-- R123: f8_hex is exactly two digits, after the prefix if asked (whatever the prefix is), and a value of
256 or more is refused. -/
def Obligations.F8HexIsTwoDigits : Prop :=
  ∀ v : Data,
    (v.toNat < 256 → ∃ ds : String,
      ds = String.ofList [Nat.digitChar (v.toNat / 16), Nat.digitChar (v.toNat % 16)] ∧
      f8Hex v false = .ok ds ∧ f8Hex v true = .ok (Config.f8HexPrefix ++ ds)) ∧
    (256 ≤ v.toNat → ∀ p : Bool, f8Hex v p = .error .f8HexOfUnreducedValue)

/-- R125: iterate lists as many bits as the bit length, and element i is the data of BV_GETBIT v, i. -/
def Obligations.IterateListsTheBitsOfGetbit : Prop :=
  ∀ v : Data, (iterate v).length = blen v.toNat ∧
    ∀ (i : Nat) (s : State), i < blen v.toNat →
      ∃ bit : Bool, (iterate v)[i]? = some bit ∧
        exec (.bvGetbit v (BitVec.ofNat 16 i)) s =
          .next { s with rspValid := true, rspData := if bit then 1 else 0, rspErr := 0, rspRed := false }

/-- R61: each pseudo-instruction expands to its one command. -/
def Obligations.PseudoInstructionsExpandToTheirCommands : Prop :=
  ∀ a b : Data, ∀ name : String, ∀ ops : List Nat, ∀ i : Instr,
    (name, ops, i) ∈
      [("BV_COPY", [a.toNat], Instr.bvPass a 0), ("BV_TOINT", [a.toNat], .bvPass a 0),
       ("FE_TOINT", [a.toNat], .bvPass a 0), ("FE_LEN", [a.toNat], .bvLen a 0),
       ("FE_GETBIT", [a.toNat, b.toNat], .bvGetbit a b), ("FE_SUB", [a.toNat, b.toNat], .feAdd a b),
       ("F8_CHECK", [a.toNat], .f8ReduceStrict a 0), ("F8_SQR", [a.toNat], .f8Mul a a)] →
    ∃ row, asmRow? name = some row ∧ assembleInstr row ops = .ok (encode i)

/-- R62: a mnemonic with its operands encodes as op · 2^32 + a · 2^16 + b, a missing operand as 0; R59: too
many operands, or one of 2^16 or more, and nothing is sent. -/
def Obligations.AssemblerEncodesOrRefuses : Prop :=
  ∀ row ∈ commandRows, ∀ ops : List Nat,
    (ops.length ≤ row.arity → (∀ v ∈ ops, v < 2 ^ 16) →
      ∃ w : CmdWord, assembleInstr row ops = .ok w ∧
        w.toNat = row.op.toNat * 2 ^ 32 + ops.getD 0 0 * 2 ^ 16 + ops.getD 1 0) ∧
    (row.arity < ops.length ∨ (∃ v ∈ ops, 2 ^ 16 ≤ v) → ∃ e, assembleInstr row ops = .error e)
end

