-- ==== Sys2Proof/Laws/Decode.lean ====
section
/-! SUPPORT. Fields of a concatenated command word (R50, R51), and requests (R9). -/

namespace Sys2Proof

/-- Bit `i` of a word comes from the field that holds position `i` (R50). -/
theorem getLsbD_mkWord (op : Opcode) (a b : Data) (i : Nat) :
    (mkWord op a b).getLsbD i =
      if i < 16 then b.getLsbD i
      else if i < 32 then a.getLsbD (i - 16) else op.getLsbD (i - 32) := by
  change (BitVec.append (BitVec.append op a) b).getLsbD i = _
  rw [BitVec.append_eq, BitVec.append_eq, BitVec.getLsbD_append, BitVec.getLsbD_append]
  by_cases h : i < 16
  · simp [h]
  · by_cases h' : i < 32
    · simp [h, h', show i - 16 < 16 by omega]
    · simp [h, h', show ¬ i - 16 < 16 by omega, Nat.sub_sub]

@[simp] theorem wordOp_mkWord (op : Opcode) (a b : Data) : wordOp (mkWord op a b) = op := by
  apply BitVec.eq_of_getLsbD_eq
  intro i hi
  rw [wordOp, BitVec.getLsbD_extractLsb', getLsbD_mkWord]
  simp [hi, show ¬ 32 + i < 16 by omega]

@[simp] theorem wordA_mkWord (op : Opcode) (a b : Data) : wordA (mkWord op a b) = a := by
  apply BitVec.eq_of_getLsbD_eq
  intro i hi
  rw [wordA, BitVec.getLsbD_extractLsb', getLsbD_mkWord]
  simp [hi, show 16 + i < 32 by omega]

@[simp] theorem wordB_mkWord (op : Opcode) (a b : Data) : wordB (mkWord op a b) = b := by
  apply BitVec.eq_of_getLsbD_eq
  intro i hi
  rw [wordB, BitVec.getLsbD_extractLsb', getLsbD_mkWord]
  simp [hi]

/-- Decoding a word made of three fields is looking the opcode up. -/
theorem decode_mkWord (op : Opcode) (a b : Data) : decode (mkWord op a b) = decodeFields op a b := by
  simp [decode]

/-- A word is made of its three fields. -/
theorem mkWord_fields (w : CmdWord) : mkWord (wordOp w) (wordA w) (wordB w) = w := by
  apply BitVec.eq_of_getLsbD_eq
  intro i hi
  rw [getLsbD_mkWord]
  simp only [wordOp, wordA, wordB, BitVec.getLsbD_extractLsb']
  by_cases h : i < 16
  · simp [h]
  · by_cases h' : i < 32
    · simp [h, h', show i - 16 < 16 by omega, show 16 + (i - 16) = i by omega]
    · simp [h, h', show i - 32 < 4 by omega, show 32 + (i - 32) = i by omega]

/-- The checks on a request say that it is well formed. -/
theorem check_eq_ok_iff (r : Request) : r.check = .ok () ↔ r.wellFormed = true := by
  unfold Request.check Request.wellFormed
  cases fitsUnsigned Config.opW r.op <;> cases fitsUnsigned Config.dataW r.a <;>
    cases fitsUnsigned Config.dataW r.b <;> simp

end Sys2Proof
end

