-- ==== Sys2Proof/Laws/Operands.lean ====
section
/-! SUPPORT. The bit length (R10). -/

namespace Sys2Proof.Machine

@[simp] theorem blen_zero : blen 0 = 0 := rfl

theorem blen_pos {v : Nat} (h : v ≠ 0) : blen v = v.log2 + 1 := if_neg h

/-- The bit length is at most `n` exactly when the value needs at most `n` bits. -/
theorem blen_le_iff {v n : Nat} : blen v ≤ n ↔ v < 2 ^ n := by
  by_cases h : v = 0
  · simp [h]
  · rw [blen_pos h, Nat.add_one_le_iff, Nat.log2_lt h]

theorem lt_blen_iff {v n : Nat} : n < blen v ↔ 2 ^ n ≤ v := by
  rw [← not_le, blen_le_iff, not_lt]

theorem lt_two_pow_blen (v : Nat) : v < 2 ^ blen v := blen_le_iff.mp le_rfl

theorem blen_eq_zero_iff {v : Nat} : blen v = 0 ↔ v = 0 := by
  rw [← Nat.le_zero, blen_le_iff]; simp

/-- An operand has at most DATA_W bits (R9). -/
theorem blen_operand_le (a : Data) : blen (operand a) ≤ 16 := blen_le_iff.mpr a.isLt

/-- No bit at or above the bit length is set. -/
theorem testBit_of_blen_le {v i : Nat} (h : blen v ≤ i) : v.testBit i = false :=
  Nat.testBit_lt_two_pow (blen_le_iff.mp h)

/-- The top bit of a nonzero value is set. -/
theorem testBit_blen_sub_one {v : Nat} (h : v ≠ 0) : v.testBit (blen v - 1) = true := by
  rw [blen_pos h, Nat.add_sub_cancel]
  exact Nat.testBit_log2 h

/-- `bitAt` is the bit as a number. -/
theorem bitAt_eq (v i : Nat) : bitAt v i = if v.testBit i then 1 else 0 := by
  rw [bitAt, Nat.testBit_eq_decide_div_mod_eq, Nat.shiftRight_eq_div_pow, Nat.and_one_is_mod]
  rcases Nat.mod_two_eq_zero_or_one (v / 2 ^ i) with h | h <;> simp [h]

end Sys2Proof.Machine
end

