-- ==== Sys2Proof/Laws/State.lean ====
section
/-! SUPPORT. What each update of State leaves in each field. -/

namespace Sys2Proof.Machine

variable (s : State) (r : Response) (i : Instr) (n w : Nat)

@[simp] theorem writeResponse_rspValid : (s.writeResponse r).rspValid = true := rfl
@[simp] theorem writeResponse_rspData : (s.writeResponse r).rspData = r.data := rfl
@[simp] theorem writeResponse_rspErr : (s.writeResponse r).rspErr = r.err := rfl
@[simp] theorem writeResponse_rspRed : (s.writeResponse r).rspRed = r.red := rfl
@[simp] theorem writeResponse_booted : (s.writeResponse r).booted = s.booted := rfl
@[simp] theorem writeResponse_inputs : (s.writeResponse r).inputs = s.inputs := rfl
@[simp] theorem writeResponse_log : (s.writeResponse r).log = s.log := rfl
@[simp] theorem writeResponse_response : (s.writeResponse r).response = r := rfl

@[simp] theorem advance_rspValid : s.advance.rspValid = s.rspValid := rfl
@[simp] theorem advance_rspData : s.advance.rspData = s.rspData := rfl
@[simp] theorem advance_rspErr : s.advance.rspErr = s.rspErr := rfl
@[simp] theorem advance_rspRed : s.advance.rspRed = s.rspRed := rfl
@[simp] theorem advance_booted : s.advance.booted = s.booted := rfl
@[simp] theorem advance_inputs : s.advance.inputs = s.inputs.tail := rfl
@[simp] theorem advance_log : s.advance.log = s.log := rfl
@[simp] theorem advance_response : s.advance.response = s.response := rfl

@[simp] theorem takeResponse_rspValid : s.takeResponse.rspValid = false := rfl
@[simp] theorem takeResponse_rspData : s.takeResponse.rspData = s.rspData := rfl
@[simp] theorem takeResponse_rspErr : s.takeResponse.rspErr = s.rspErr := rfl
@[simp] theorem takeResponse_rspRed : s.takeResponse.rspRed = s.rspRed := rfl
@[simp] theorem takeResponse_booted : s.takeResponse.booted = s.booted := rfl
@[simp] theorem takeResponse_inputs : s.takeResponse.inputs = s.inputs := rfl
@[simp] theorem takeResponse_log :
    s.takeResponse.log = settleOutstanding (.taken s.response) s.log := rfl
@[simp] theorem takeResponse_response : s.takeResponse.response = s.response := rfl

@[simp] theorem recordAccepted_rspValid : (s.recordAccepted i).rspValid = s.rspValid := rfl
@[simp] theorem recordAccepted_rspData : (s.recordAccepted i).rspData = s.rspData := rfl
@[simp] theorem recordAccepted_rspErr : (s.recordAccepted i).rspErr = s.rspErr := rfl
@[simp] theorem recordAccepted_rspRed : (s.recordAccepted i).rspRed = s.rspRed := rfl
@[simp] theorem recordAccepted_booted : (s.recordAccepted i).booted = s.booted := rfl
@[simp] theorem recordAccepted_inputs : (s.recordAccepted i).inputs = s.inputs := rfl
@[simp] theorem recordAccepted_log : (s.recordAccepted i).log = ⟨i, .pending⟩ :: s.log := rfl

@[simp] theorem resetEdge_rspValid : s.resetEdge.rspValid = false := rfl
@[simp] theorem resetEdge_rspData : s.resetEdge.rspData = 0x0000 := rfl
@[simp] theorem resetEdge_rspErr : s.resetEdge.rspErr = 0 := rfl
@[simp] theorem resetEdge_rspRed : s.resetEdge.rspRed = false := rfl
@[simp] theorem resetEdge_booted : s.resetEdge.booted = true := rfl
@[simp] theorem resetEdge_inputs : s.resetEdge.inputs = s.inputs.tail := rfl
@[simp] theorem resetEdge_log : s.resetEdge.log = settleOutstanding .lost s.log := rfl

@[simp] theorem withFetchWord_rspValid : (s.withFetchWord n w).rspValid = s.rspValid := rfl
@[simp] theorem withFetchWord_rspData : (s.withFetchWord n w).rspData = s.rspData := rfl
@[simp] theorem withFetchWord_rspErr : (s.withFetchWord n w).rspErr = s.rspErr := rfl
@[simp] theorem withFetchWord_rspRed : (s.withFetchWord n w).rspRed = s.rspRed := rfl
@[simp] theorem withFetchWord_booted : (s.withFetchWord n w).booted = true := rfl
@[simp] theorem withFetchWord_log : (s.withFetchWord n w).log = s.log := rfl

/-- After the take part of an edge the sample is consumed and nothing but `rsp_valid` and the record can
have changed (R156). -/
theorem afterTake_eq : s.afterTake =
    { s with
      inputs := s.inputs.tail
      rspValid := if s.takes s.edge then false else s.rspValid
      log := if s.takes s.edge then settleOutstanding (.taken s.response) s.log else s.log } := by
  unfold State.afterTake
  split <;> rfl

@[simp] theorem afterTake_inputs : s.afterTake.inputs = s.inputs.tail := by rw [afterTake_eq]
@[simp] theorem afterTake_booted : s.afterTake.booted = s.booted := by rw [afterTake_eq]
@[simp] theorem afterTake_rspData : s.afterTake.rspData = s.rspData := by rw [afterTake_eq]
@[simp] theorem afterTake_rspErr : s.afterTake.rspErr = s.rspErr := by rw [afterTake_eq]
@[simp] theorem afterTake_rspRed : s.afterTake.rspRed = s.rspRed := by rw [afterTake_eq]
@[simp] theorem afterTake_rspValid :
    s.afterTake.rspValid = if s.takes s.edge then false else s.rspValid := by rw [afterTake_eq]
@[simp] theorem afterTake_log : s.afterTake.log =
    if s.takes s.edge then settleOutstanding (.taken s.response) s.log else s.log := by
  rw [afterTake_eq]
@[simp] theorem afterTake_response : s.afterTake.response = s.response := by
  simp [State.response]

/-- The coming edge is the head of the script. -/
theorem edge_of_inputs {s : State} {e : EdgeInput} {rest : List EdgeInput}
    (h : s.inputs = e :: rest) : s.edge = e := by
  simp [State.edge, h]

@[simp] theorem settleOutstanding_nil (f : Fate) : settleOutstanding f [] = [] := rfl

theorem settleOutstanding_cons (f : Fate) (t : Transaction) (ts : List Transaction) :
    settleOutstanding f (t :: ts) =
      if t.fate = .pending then { t with fate := f } :: ts else t :: ts := rfl

@[simp] theorem settleOutstanding_pending (f : Fate) (ts : List Transaction) :
    settleOutstanding f (⟨i, .pending⟩ :: ts) = ⟨i, f⟩ :: ts := by
  simp [settleOutstanding_cons]

theorem settleOutstanding_settled {t : Transaction} (h : t.fate ≠ .pending) (f : Fate)
    (ts : List Transaction) : settleOutstanding f (t :: ts) = t :: ts := by
  simp [settleOutstanding_cons, h]

@[simp] theorem settleOutstanding_tail (f : Fate) (ts : List Transaction) :
    (settleOutstanding f ts).tail = ts.tail := by
  cases ts with
  | nil => rfl
  | cons t ts => rw [settleOutstanding_cons]; split <;> rfl

/-- An entry after settling the outstanding command either stood there before, or is the outstanding
command with its new fate. -/
theorem mem_settleOutstanding {t : Transaction} {f : Fate} {ts : List Transaction}
    (h : t ∈ settleOutstanding f ts) :
    t ∈ ts ∨ ∃ i us, ts = ⟨i, .pending⟩ :: us ∧ t = ⟨i, f⟩ := by
  cases ts with
  | nil => simp at h
  | cons u us =>
    obtain ⟨i, g⟩ := u
    by_cases hg : g = .pending
    · subst hg
      rw [settleOutstanding_pending] at h
      rcases List.mem_cons.mp h with rfl | h
      · exact .inr ⟨i, us, rfl, rfl⟩
      · exact .inl (List.mem_cons_of_mem _ h)
    · rw [settleOutstanding_settled (by simpa using hg)] at h
      exact .inl h

/-- Settling with a fate that is not `pending` leaves no command outstanding at the head. -/
theorem settleOutstanding_head_ne_pending {f : Fate} (hf : f ≠ .pending) (ts us : List Transaction) :
    settleOutstanding f ts ≠ ⟨i, .pending⟩ :: us := by
  cases ts with
  | nil => simp
  | cons t ts =>
    obtain ⟨j, g⟩ := t
    by_cases hg : g = .pending
    · subst hg; simp [hf]
    · rw [settleOutstanding_settled (by simpa using hg)]; simp [hg]

end Sys2Proof.Machine
end

