-- ==== Sys2Proof/Laws/Ops.lean ====
section
/-! SUPPORT. What `respond` and `raise` do: they complete, and write the response register and nothing else. -/

namespace Sys2Proof.Machine

/-- The whole of what `respond` does (R22). -/
theorem respond_eq (data : Nat) (err : ErrCode) (red : Bool) (s : State) :
    respond data err red s = .next (s.writeResponse ⟨zext16 data, err, red⟩) := rfl

/-- The whole of what `raise` does (R131). -/
theorem raise_eq (e : ErrorKind) (s : State) :
    raise e s = .next (s.writeResponse ⟨0, e.code, false⟩) := rfl

/-- A result that fits the bus keeps every bit (R22). -/
theorem zext16_toNat {v : Nat} (h : v < 2 ^ 16) : (zext16 v).toNat = v := by
  rw [zext16, BitVec.toNat_ofNat, Nat.mod_eq_of_lt h]

@[simp] theorem zext16_operand (a : Data) : zext16 (operand a) = a := by
  simp [zext16, operand]

@[simp] theorem zext16_operand_xor (a b : Data) : zext16 (operand a ^^^ operand b) = a ^^^ b := by
  apply BitVec.eq_of_toNat_eq
  rw [zext16_toNat]
  · simp [operand]
  · exact Nat.xor_lt_two_pow a.isLt b.isLt

end Sys2Proof.Machine
end

