-- ==== Sys2Proof/Laws/PerInstr.lean ====
section
/-! SUPPORT. One statement about every command as syntax: its word carries its opcode and its two operand
fields, each in its place (R50, R51). -/

namespace Sys2Proof.Laws.WordFields

def Statement (i : Instr) : Prop :=
  wordOp (encode i) = i.opcode ∧ wordA (encode i) = i.fieldA ∧ wordB (encode i) = i.fieldB

theorem of_mkWord (i : Instr) : Statement i :=
  ⟨wordOp_mkWord _ _ _, wordA_mkWord _ _ _, wordB_mkWord _ _ _⟩

theorem bvPass (a b : Data) : Statement (.bvPass a b) := of_mkWord _
theorem bvLen (a b : Data) : Statement (.bvLen a b) := of_mkWord _
theorem bvGetbit (a b : Data) : Statement (.bvGetbit a b) := of_mkWord _
theorem bvXor (a b : Data) : Statement (.bvXor a b) := of_mkWord _
theorem bvShl (a b : Data) : Statement (.bvShl a b) := of_mkWord _
theorem bvShr (a b : Data) : Statement (.bvShr a b) := of_mkWord _
theorem feAdd (a b : Data) : Statement (.feAdd a b) := of_mkWord _
theorem feMul (a b : Data) : Statement (.feMul a b) := of_mkWord _
theorem f8Reduce (a b : Data) : Statement (.f8Reduce a b) := of_mkWord _
theorem f8ReduceStrict (a b : Data) : Statement (.f8ReduceStrict a b) := of_mkWord _
theorem f8Mul (a b : Data) : Statement (.f8Mul a b) := of_mkWord _
theorem reservedB (a b : Data) : Statement (.reservedB a b) := of_mkWord _
theorem reservedC (a b : Data) : Statement (.reservedC a b) := of_mkWord _
theorem reservedD (a b : Data) : Statement (.reservedD a b) := of_mkWord _
theorem reservedE (a b : Data) : Statement (.reservedE a b) := of_mkWord _
theorem reservedF (a b : Data) : Statement (.reservedF a b) := of_mkWord _

end Sys2Proof.Laws.WordFields
end

