-- ==== Sys2Proof/Laws/Polynomial.lean ====
section
/-! SUPPORT. The recursion of the carry-less product and of the reduction scan (R92, R102). -/

namespace Sys2Proof.Machine

@[simp] theorem clmulBelow_zero (a b : Nat) : clmulBelow a b 0 = 0 := rfl

theorem clmulBelow_succ (a b n : Nat) :
    clmulBelow a b (n + 1) =
      if b.testBit n then clmulBelow a b n ^^^ (a <<< n) else clmulBelow a b n := rfl

/-- Looking above the bit length of `b` adds nothing. -/
theorem clmulBelow_of_blen_le {a b n : Nat} (h : blen b ≤ n) : clmulBelow a b n = clmul a b := by
  induction n, h using Nat.le_induction with
  | base => rfl
  | succ n h ih => rw [clmulBelow_succ, testBit_of_blen_le h, ih]; simp

/-- Only the bits of `b` below `n` matter. -/
theorem clmulBelow_congr {a b c n : Nat} (h : ∀ i < n, b.testBit i = c.testBit i) :
    clmulBelow a b n = clmulBelow a c n := by
  induction n with
  | zero => rfl
  | succ n ih =>
    rw [clmulBelow_succ, clmulBelow_succ, h n (Nat.lt_succ_self n),
      ih fun i hi => h i (Nat.lt_succ_of_lt hi)]

theorem reduceStep_of_set {tested i : Nat} (h : tested.testBit i = true) (st : Nat × Bool) :
    reduceStep tested i st =
      (st.1 ^^^ (Config.reductionPoly <<< (i - Config.fieldBits)), true) := by
  simp [reduceStep, h]

theorem reduceStep_of_clear {tested i : Nat} (h : tested.testBit i = false) (st : Nat × Bool) :
    reduceStep tested i st = st := by
  simp [reduceStep, h]

@[simp] theorem reducePass_zero (st : Nat × Bool) : reducePass 0 st = st := rfl

theorem reducePass_succ (n : Nat) (st : Nat × Bool) :
    reducePass (n + 1) st = reducePass n (reduceStep st.1 (Config.fieldBits + n) st) := rfl

/-- A field-valid value is left alone (R102). -/
theorem reduceLoop_of_fieldValid {v : Nat} (h : blen v ≤ Config.fieldBits) (fuel : Nat) (red : Bool) :
    reduceLoop fuel (v, red) = (v, red) := by
  cases fuel with
  | zero => rfl
  | succ n => exact if_neg (Nat.not_lt.mpr h)

theorem reduceLoop_succ {v : Nat} (h : Config.fieldBits < blen v) (fuel : Nat) (red : Bool) :
    reduceLoop (fuel + 1) (v, red) =
      reduceLoop fuel (reducePass (blen v - Config.fieldBits) (v, red)) := if_pos h

end Sys2Proof.Machine
end

