-- ==== Sys2Proof/Laws/Step.lean ====
section
/-! SUPPORT. What an edge does, case by case (R156). -/

namespace Sys2Proof.Machine

@[simp] theorem command_present (w : CmdWord) : (EdgeInput.present w).command = some w := by
  simp [EdgeInput.present, EdgeInput.command, mkWord_fields]

@[simp] theorem present_rst (w : CmdWord) : (EdgeInput.present w).rst = false := rfl
@[simp] theorem present_cmdValid (w : CmdWord) : (EdgeInput.present w).cmdValid = true := rfl
@[simp] theorem present_rspReady (w : CmdWord) : (EdgeInput.present w).rspReady = true := rfl

theorem step_of_rst {s : State} (h : s.edge.rst = true) : step s = .next s.resetEdge := by
  simp [step, h]

theorem step_of_usedTooEarly {s : State} (hr : s.edge.rst = false) (h : s.usedTooEarly = true) :
    step s = .refused .usedBeforeFirstReset := by
  simp [step, hr, h]

theorem usedTooEarly_of_booted {s : State} (h : s.booted = true) : s.usedTooEarly = false := by
  simp [State.usedTooEarly, h]

/-- No command is presented: the edge only lets the host take a response (R156). -/
theorem step_of_no_command {s : State} (hr : s.edge.rst = false) (hu : s.usedTooEarly = false)
    (hv : s.edge.cmdValid = false) : step s = .next s.afterTake := by
  simp [step, hr, hu, hv]

theorem step_of_unknown {s : State} (hr : s.edge.rst = false) (hu : s.usedTooEarly = false)
    (hv : s.edge.cmdValid = true) (hc : s.edge.command = none) :
    step s = .refused .unknownCommandWire := by
  simp [step, hr, hu, hv, hc]

/-- A command with defined wires that is not accepted changes nothing (R156, R157). -/
theorem step_of_stall {s : State} (hr : s.edge.rst = false) (hu : s.usedTooEarly = false)
    {w : CmdWord} (hc : s.edge.command = some w) (ha : s.accepts s.edge = false) :
    step s = .next s.afterTake := by
  cases hv : s.edge.cmdValid
  · exact step_of_no_command hr hu hv
  · simp [step, hr, hu, hv, hc, ha]

theorem step_of_accept {s : State} (hu : s.usedTooEarly = false)
    {w : CmdWord} (hc : s.edge.command = some w) (ha : s.accepts s.edge = true) :
    step s = exec (decode w) (s.afterTake.recordAccepted (decode w)) := by
  have hv : s.edge.cmdValid = true := by simp_all [State.accepts]
  have hr : s.edge.rst = false := by simp_all [State.accepts, State.cmdReady]
  simp [step, hr, hu, hv, hc, ha]

/-- Every way a step can go on. -/
theorem step_next_cases {s t : State} (h : step s = .next t) :
    (s.edge.rst = true ∧ t = s.resetEdge) ∨
    (s.edge.rst = false ∧ s.usedTooEarly = false ∧ s.accepts s.edge = false ∧ t = s.afterTake) ∨
    (s.edge.rst = false ∧ s.usedTooEarly = false ∧ s.accepts s.edge = true ∧
      ∃ w, s.edge.command = some w ∧
        exec (decode w) (s.afterTake.recordAccepted (decode w)) = .next t) := by
  cases hr : s.edge.rst
  · cases hu : s.usedTooEarly
    · cases hv : s.edge.cmdValid
      · rw [step_of_no_command hr hu hv] at h
        exact .inr (.inl ⟨rfl, rfl, by simp [State.accepts, hv], by simpa using h.symm⟩)
      · cases hc : s.edge.command with
        | none => rw [step_of_unknown hr hu hv hc] at h; cases h
        | some w =>
          cases ha : s.accepts s.edge
          · rw [step_of_stall hr hu hc ha] at h
            exact .inr (.inl ⟨rfl, rfl, rfl, by simpa using h.symm⟩)
          · rw [step_of_accept hu hc ha] at h
            exact .inr (.inr ⟨rfl, rfl, rfl, w, rfl, h⟩)
    · rw [step_of_usedTooEarly hr hu] at h; cases h
  · rw [step_of_rst hr] at h
    exact .inl ⟨rfl, by simpa using h.symm⟩

end Sys2Proof.Machine
end

