-- ==== Sys2Proof/Tests/Slice0.lean ====
section
/-! SUPPORT. Tests, their expected results taken from spec/95_test_vectors.md and the rules' examples, and
one witness for the hypotheses of each statement that has some. -/

namespace Sys2Proof.Tests

open Sys2Proof Sys2Proof.Machine

/-! ### Well-formedness: one ill-formed request for each check (R9, U12) -/

theorem test_request_opcode_16_refused :
    (Request.mk 16 0 0).wellFormed = false ∧
    (Request.mk 16 0 0).present = .error .opcodeNotRepresentable := by decide
theorem test_request_operand_a_65536_refused :
    (Request.mk 0 65536 0).wellFormed = false ∧
    (Request.mk 0 65536 0).present = .error .operandANotRepresentable := by decide
theorem test_request_operand_b_negative_refused :
    (Request.mk 0 0 (-1)).wellFormed = false ∧
    (Request.mk 0 0 (-1)).present = .error .operandBNotRepresentable := by decide
/-- R62's example `F8_MUL 0xAF, 3` is `A_00AF_0003`. -/
theorem test_request_presented :
    (Request.mk 10 0xAF 3).wellFormed = true ∧
    (Request.mk 10 0xAF 3).present = .ok 0xA_00AF_0003 := by decide

/-! ### Decoding: each row's word written bit by bit from its encoding in the opcode table -/

theorem test_decode_bvPass : decodeTableWord 40 0b0000_0000000010101111_0000000000000000 = some (.bvPass 175 0) := by decide
theorem test_decode_bvLen : decodeTableWord 40 0b0001_0000000010101111_0000000000000000 = some (.bvLen 175 0) := by decide
theorem test_decode_bvGetbit : decodeTableWord 40 0b0010_0000000010101111_0000000000000100 = some (.bvGetbit 175 4) := by decide
theorem test_decode_bvXor : decodeTableWord 40 0b0011_0000000010101111_0000000000000011 = some (.bvXor 175 3) := by decide
theorem test_decode_bvShl : decodeTableWord 40 0b0100_0000000010101111_0000000000000001 = some (.bvShl 175 1) := by decide
theorem test_decode_bvShr : decodeTableWord 40 0b0101_0000000010101111_0000000000000100 = some (.bvShr 175 4) := by decide
theorem test_decode_feAdd : decodeTableWord 40 0b0110_0000000001010111_0000000010000011 = some (.feAdd 0x57 0x83) := by decide
theorem test_decode_feMul : decodeTableWord 40 0b0111_0000000010101111_0000000000000011 = some (.feMul 175 3) := by decide
theorem test_decode_f8Reduce : decodeTableWord 40 0b1000_0000000100101100_0000000000000000 = some (.f8Reduce 300 0) := by decide
theorem test_decode_f8ReduceStrict : decodeTableWord 40 0b1001_0000000100101100_0000000000000000 = some (.f8ReduceStrict 300 0) := by decide
theorem test_decode_f8Mul : decodeTableWord 40 0b1010_0000000010101111_0000000000000011 = some (.f8Mul 0xAF 3) := by decide
theorem test_decode_reservedB : decodeTableWord 40 0b1011_0000000000000000_0000000000000001 = some (.reservedB 0 1) := by decide
theorem test_decode_reservedC : decodeTableWord 40 0b1100_1000000000000000_0000000000000000 = some (.reservedC 0x8000 0) := by decide
theorem test_decode_reservedD : decodeTableWord 40 0b1101_0001001000110100_0101011001111000 = some (.reservedD 0x1234 0x5678) := by decide
theorem test_decode_reservedE : decodeTableWord 40 0b1110_0000000010101111_0000000000000011 = some (.reservedE 0xAF 3) := by decide
theorem test_decode_reservedF : decodeTableWord 40 0b1111_1111111111111111_0000000000000000 = some (.reservedF 0xFFFF 0) := by decide
theorem test_decode_wider_word_refused : decodeBits 0x1000000000 = .error .widerThanCommandWord := by
  decide
/-- R62's example. -/
theorem test_encode_f8Mul : encode (.f8Mul 0x53 0x53) = 0xA_0053_0053 := by decide

/-! ### Commands: one step from reset with the word on the ports -/

/-- Data, error code and flag that one step from reset with the word `w` on the ports loads. -/
def answerTo (w : Nat) : Option (Nat × Nat × Bool) :=
  match step (State.reset.withFetchWord 36 w) with
  | .next t => some (t.rspData.toNat, t.rspErr.toNat, t.rspRed)
  | .fault _ => none
  | .refused _ => none

/-- BV-03. -/
theorem test_bvPass_largest : answerTo 0x0FFFF0000 = some (0xffff, 0, false) := by decide
/-- BV-10. -/
theorem test_bvLen_ignores_B : answerTo 0x100AFFFFF = some (8, 0, false) := by decide
/-- BV-09. -/
theorem test_bvLen_largest : answerTo 0x1FFFF0000 = some (16, 0, false) := by decide
/-- BV-13. -/
theorem test_bvGetbit_clear_bit : answerTo 0x200AF0004 = some (0, 0, false) := by decide
/-- BV-15. -/
theorem test_bvGetbit_at_bit_length : answerTo 0x200AF0008 = some (0, 2, false) := by decide
/-- BV-21. -/
theorem test_bvXor_drops_leading_bits : answerTo 0x301000101 = some (1, 0, false) := by decide
/-- S7, BV-19. -/
theorem test_bvXor_source_example : answerTo 0x300AF0003 = some (0xac, 0, false) := by decide
/-- BV-31. -/
theorem test_bvShl_to_the_top : answerTo 0x400AF0008 = some (0xaf00, 0, false) := by decide
/-- BV-32. -/
theorem test_bvShl_one_too_far : answerTo 0x400AF0009 = some (0, 4, false) := by decide
/-- BV-36. -/
theorem test_bvShr_amount_not_modulo_16 : answerTo 0x5FFFF0010 = some (0, 0, false) := by decide
/-- BV-33. -/
theorem test_bvShr_by_four : answerTo 0x500AF0004 = some (10, 0, false) := by decide
/-- FE-04. -/
theorem test_feAdd_wide_operand : answerTo 0x6FFFF00FF = some (0xff00, 0, false) := by decide
/-- FE-01. -/
theorem test_feAdd_fips : answerTo 0x600570083 = some (0xd4, 0, false) := by decide
/-- FE-12. -/
theorem test_feMul_no_carries : answerTo 0x700FF00FF = some (0x5555, 0, false) := by decide
/-- FE-14. -/
theorem test_feMul_seventeen_bits : answerTo 0x701000100 = some (0, 4, false) := by decide
/-- F8-10. -/
theorem test_f8Reduce_all_ones : answerTo 0x8FFFF0000 = some (0x35, 0, true) := by decide
/-- F8-06. -/
theorem test_f8Reduce_the_modulus : answerTo 0x8011B0000 = some (0, 0, true) := by decide
/-- F8-14. -/
theorem test_f8ReduceStrict_largest : answerTo 0x900FF0000 = some (0xff, 0, false) := by decide
/-- F8-15. -/
theorem test_f8ReduceStrict_256 : answerTo 0x901000000 = some (0, 3, false) := by decide
/-- S9, F8-18. -/
theorem test_f8Mul_corrected_example : answerTo 0xA00AF0003 = some (0xea, 0, true) := by decide
/-- F8-30. -/
theorem test_f8Mul_reduced_self_sets_no_flag : answerTo 0xA012C0001 = some (0x37, 0, false) := by decide
/-- RSV-01. -/
theorem test_reservedB : answerTo 0xB00000000 = some (0, 5, false) := by decide
/-- RSV-02. -/
theorem test_reservedC : answerTo 0xCFFFFFFFF = some (0, 5, false) := by decide
/-- RSV-03. -/
theorem test_reservedD : answerTo 0xD12345678 = some (0, 5, false) := by decide
/-- RSV-04. -/
theorem test_reservedE : answerTo 0xE00AF0003 = some (0, 5, false) := by decide
/-- RSV-05. -/
theorem test_reservedF : answerTo 0xF00000001 = some (0, 5, false) := by decide

/-! ### The handshake: edges of P4, one step each -/

/-- A booted block that holds a response, with one port sample to come. -/
def holding (i : Instr) (r : Response) (e : EdgeInput) : State :=
  { State.reset with
    rspValid := true, rspData := r.data, rspErr := r.err, rspRed := r.red
    inputs := [e], log := [⟨i, .pending⟩] }

/-- A booted block that holds no response, with one port sample to come. -/
def empty (e : EdgeInput) : State := { State.reset with inputs := [e] }

/-- The port sample of a presented word, with the host's ready input given. -/
def presenting (w : CmdWord) (ready : Bool) : EdgeInput :=
  { EdgeInput.present w with rspReady := ready }

/-- Edge 2: the host is not ready, the block stalls and holds (0xEA, 0, 1). -/
theorem test_p4_edge2_stall :
    (match step (holding (.f8Mul 0xAF 3) ⟨0xEA, 0, true⟩ (presenting 0xA_0057_0083 false)) with
     | .next t => t.rspValid && t.response == ⟨0xEA, 0, true⟩ && t.log == [⟨.f8Mul 0xAF 3, .pending⟩]
     | _ => false) = true := by decide

/-- Edge 3: take (0xEA, 0, 1) and accept F8_MUL 0x57, 0x83, which loads (0xC1, 0, 1). -/
theorem test_p4_edge3_take_and_accept :
    (match step (holding (.f8Mul 0xAF 3) ⟨0xEA, 0, true⟩ (presenting 0xA_0057_0083 true)) with
     | .next t => t.rspValid && t.response == ⟨0xC1, 0, true⟩ &&
         t.log == [⟨.f8Mul 0x57 0x83, .pending⟩, ⟨.f8Mul 0xAF 3, .taken ⟨0xEA, 0, true⟩⟩]
     | _ => false) = true := by decide

/-- Edge 5: take (0, 2, 0); the fields hold. -/
theorem test_p4_edge5_take :
    (match step (holding (.bvGetbit 0 0) ⟨0, 2, false⟩ EdgeInput.taking) with
     | .next t => !t.rspValid && t.response == ⟨0, 2, false⟩ &&
         t.log == [⟨.bvGetbit 0 0, .taken ⟨0, 2, false⟩⟩]
     | _ => false) = true := by decide

/-- Edge 7: reset; the FE_MUL response is discarded, BV_PASS is not accepted. -/
theorem test_p4_edge7_reset :
    (match step (holding (.feMul 0x100 0x100) ⟨0, 4, false⟩
        { presenting 0x0_1234_0000 true with rst := true }) with
     | .next t => !t.rspValid && t.response == ⟨0, 0, false⟩ &&
         t.log == [⟨.feMul 0x100 0x100, .lost⟩]
     | _ => false) = true := by decide

/-- R144: with nothing presented the block holds its response register. -/
theorem test_idle_edge_holds :
    step State.reset = .next State.reset := rfl

/-! ### Renderings and assembler: the examples of 45 and 30 -/

theorem test_binary_string : toBinaryString 175 = "10101111" ∧ toBinaryString 0 = "0" := by decide
theorem test_hex_string : toHexString 5 = "5" ∧ toHexString 0xFFFF = "ffff" := by decide
theorem test_f8_hex_padded : f8Hex 5 false = .ok "05" := by decide
theorem test_f8_hex_refused : f8Hex 256 false = .error .f8HexOfUnreducedValue := by decide
theorem test_poly_string_product :
    toPolyString 0x1F1 = "x^8 + x^7 + x^6 + x^5 + x^4 + 1" := by decide
theorem test_poly_string_low_terms :
    toPolyString 0xEA = "x^7 + x^6 + x^5 + x^3 + x" ∧ toPolyString 0 = "" := by decide
theorem test_iterate :
    iterate 175 = [true, true, true, true, false, true, false, true] ∧ iterate 0 = [] := by decide
theorem test_assemble_line : assembleLine "F8_MUL 0xAF, 3 ; S9" = .ok (some 0xA_00AF_0003) := by decide
theorem test_assemble_pseudo : assembleLine "F8_SQR 0x53" = .ok (some 0xA_0053_0053) := by decide
theorem test_assemble_raw : assembleLine ".cmd 0x100AFFFFF" = .ok (some 0x1_00AF_FFFF) := by decide
theorem test_assemble_too_many : assembleLine "BV_LEN 1, 2" = .error .tooManyOperands := by decide
theorem test_assemble_comment_only : assembleLine " ; nothing" = .ok none := by decide

/-! ### Witnesses: hypotheses of the statements, met together, at the boundary of each clause -/

theorem witness_RequestsBeyondThePortsAreRefused :
    (Request.mk 16 0 0).wellFormed = false ∧ (Request.mk 0 (-1) 0).wellFormed = false ∧
    (Request.mk 0 0 65536).wellFormed = false ∧ (Request.mk 15 65535 65535).wellFormed = true := by
  decide

theorem witness_StepRunsTheDecodedCommand :
    let e := presenting 0xA_00AF_0003 true
    let s := holding (.bvPass 1 0) ⟨1, 0, false⟩ e
    s.booted = true ∧ s.inputs = e :: [] ∧ e.rst = false ∧ e.cmdValid = true ∧
    e.command = some 0xA_00AF_0003 ∧ decode 0xA_00AF_0003 = .f8Mul 0xAF 3 ∧ s.cmdReady e = true := by
  decide

theorem witness_ErrorResponsesCarryNoPartialResult :
    errorCodeOf (.bvShl 0xFFFF 1) ≠ 0 ∧ errorCodeOf (.f8Mul 0 0x100) ≠ 0 ∧
    errorCodeOf (.bvGetbit 0 0) ≠ 0 ∧ errorCodeOf (.reservedB 0 0) ≠ 0 := by decide

theorem witness_BvGetbitReturnsTheBitBelowTheBitLength :
    (7#16).toNat < blen (175#16).toNat ∧ ¬ (8#16).toNat < blen (175#16).toNat ∧
    ¬ (0#16).toNat < blen (0#16).toNat := by decide

theorem witness_BvShlReturnsTheExactShiftOrOverflows :
    ((0#16) = 0 ∨ blen (0#16).toNat + (0xFFFF#16).toNat ≤ 16) ∧
    ((0xAF#16) = 0 ∨ blen (0xAF#16).toNat + (8#16).toNat ≤ 16) ∧
    ((0xAF#16) ≠ 0 ∧ 16 < blen (0xAF#16).toNat + (9#16).toNat) := by decide

theorem witness_FeMulReturnsTheExactProductOrOverflows :
    ((0x80#16) = 0 ∨ (0x100#16) = 0 ∨ blen (0x80#16).toNat + blen (0x100#16).toNat - 1 ≤ 16) ∧
    ((0x100#16) ≠ 0 ∧ (0x100#16) ≠ 0 ∧ 16 < blen (0x100#16).toNat + blen (0x100#16).toNat - 1) := by
  decide

theorem witness_F8ReduceStrictReturnsAFieldElementOrRefusesIt :
    (255#16).toNat < 256 ∧ 256 ≤ (256#16).toNat := by decide

theorem witness_F8MulReturnsTheReducedProduct :
    (255#16).toNat < 256 ∧ 256 ≤ (256#16).toNat := by decide

theorem witness_BitLengthLaws : blen 0x100 ≠ blen 0x80 ∧ (0x100 : Nat) ≠ 0 := by decide

theorem witness_CarrylessProductBitLength :
    ((3 : Nat) ≠ 0 ∧ (1 : Nat) ≠ 0) ∧ ((0 : Nat) = 0 ∨ (3 : Nat) = 0) := by decide

theorem witness_FeMulByAPowerOfTwoIsBvShl : (0 : Nat) < 16 ∧ (15 : Nat) < 16 := by decide

theorem witness_PolymodIsTheUniqueRemainder :
    (255 : Nat) < 256 ∧ IsRemainder 0x1F1 0xEA := ⟨by decide, by decide, 1, by decide⟩

theorem witness_OneReductionPassSuffices : (65535 : Nat) < 2 ^ 16 := by decide

theorem witness_FieldMultiplicationLaws :
    (0#16).toNat < 256 ∧ (0x53#16).toNat < 256 ∧ (255#16).toNat < 256 := by decide

theorem witness_EveryNonzeroFieldElementHasOneInverse :
    (0x53#16).toNat < 256 ∧ (0x53#16) ≠ 0 ∧ (0xCA#16).toNat < 256 ∧
    ∃ f, Answers (.f8Mul 0x53#16 0xCA#16) ⟨1, 0, f⟩ := by
  refine ⟨by decide, by decide, by decide, true, fun s => ?_⟩
  have hb : (reduce (operand 0xCA#16)).2 = false := by decide
  have hr : reduce (clmul (reduce (operand 0x53#16)).1 (operand 0xCA#16)) = (1, true) := by decide
  simp only [exec, execF8Mul, hb, hr]
  rfl

theorem witness_F8MulIsFeMulThenF8Reduce : (0xAF#16).toNat < 256 ∧ (3#16).toNat < 256 := by decide

theorem witness_MultiplierDatapathComputesTheCarrylessProduct :
    (carrylessMultiplier 0x80 0x100).2 = false ∧ (carrylessMultiplier 0x100 0x100).2 = true := by decide

theorem witness_ResetStateHoldsTheSpecsValues : EdgeInput.resetting.rst = true := rfl

theorem witness_ResetEdgeLoadsTheResetValues :
    (holding (.bvPass 1 0) ⟨1, 0, false⟩ EdgeInput.resetting).inputs = EdgeInput.resetting :: [] ∧
    EdgeInput.resetting.rst = true := by decide

theorem witness_ResetDiscardsTheResponseAndAcceptsNothing :
    (holding (.bvPass 1 0) ⟨1, 0, false⟩ EdgeInput.resetting).inputs = EdgeInput.resetting :: [] ∧
    (holding (.bvPass 1 0) ⟨1, 0, false⟩ EdgeInput.resetting).log = ⟨.bvPass 1 0, .pending⟩ :: [] ∧
    (empty EdgeInput.resetting).inputs = EdgeInput.resetting :: [] ∧
    EdgeInput.resetting.rst = true ∧ ∀ i ts, (empty EdgeInput.resetting).log ≠ ⟨i, .pending⟩ :: ts :=
  ⟨rfl, rfl, rfl, rfl, fun _ _ h => by cases h⟩

theorem witness_OneResetEdgeBootsTheBlock : EdgeInput.resetting.rst = true := rfl

/-- Reset, accept, take and hold: one state for each clause. -/
theorem witness_EdgeUpdate :
    (let e := EdgeInput.resetting
     (empty e).booted = true ∧ (empty e).inputs = e :: [] ∧ e.defined = true ∧ e.rst = true) ∧
    (let e := presenting 0x0_0001_0000 false
     (empty e).booted = true ∧ (empty e).inputs = e :: [] ∧ e.defined = true ∧ e.rst = false ∧
       (empty e).accepts e = true) ∧
    (let e := EdgeInput.taking
     let s := holding (.bvPass 1 0) ⟨1, 0, false⟩ e
     s.booted = true ∧ s.inputs = e :: [] ∧ e.defined = true ∧ e.rst = false ∧
       s.accepts e = false ∧ s.takes e = true) ∧
    (let e := presenting 0x0_0001_0000 false
     let s := holding (.bvPass 1 0) ⟨1, 0, false⟩ e
     s.booted = true ∧ s.inputs = e :: [] ∧ e.defined = true ∧ e.rst = false ∧
       s.accepts e = false ∧ s.takes e = false) := by decide

/-- A hold and a take, the take with a command outstanding. -/
theorem witness_EdgeWithoutAcceptanceRecordsOnlyTheTake :
    (let e := presenting 0x0_0001_0000 false
     let s := holding (.bvPass 1 0) ⟨1, 0, false⟩ e
     s.booted = true ∧ s.inputs = e :: [] ∧ e.defined = true ∧ e.rst = false ∧
       s.accepts e = false ∧ s.takes e = false) ∧
    (let e := EdgeInput.taking
     let s := holding (.bvPass 1 0) ⟨1, 0, false⟩ e
     s.booted = true ∧ s.inputs = e :: [] ∧ e.defined = true ∧ e.rst = false ∧
       s.accepts e = false ∧ s.takes e = true ∧ s.log = ⟨.bvPass 1 0, .pending⟩ :: []) := by decide

theorem witness_ResponseStaysUntilTakenOrReset :
    let e := presenting 0x0_0001_0000 false
    let s := holding (.bvPass 1 0) ⟨1, 0, false⟩ e
    s.booted = true ∧ s.rspValid = true ∧ s.inputs = e :: [] ∧ e.defined = true ∧ e.rst = false ∧
    e.rspReady = false := by decide

theorem witness_CommandsWithUnknownWiresAreRefused :
    let e := { presenting 0x0_0001_0000 true with cmdB := .unknown }
    (empty e).booted = true ∧ (empty e).inputs = e :: [] ∧ e.rst = false ∧ e.cmdValid = true ∧
    (e.cmdOp = .unknown ∨ e.cmdA = .unknown ∨ e.cmdB = .unknown) := by decide

theorem witness_StepStopsOnlyWhereTheSpecRefuses :
    let s := { empty EdgeInput.taking with booted := false }
    s.booted = false ∧ s.edge.rst = false ∧ (s.edge.cmdValid = true ∨ s.edge.rspReady = true) := by
  decide

theorem witness_HostThatNeverTakesStallsTheBlock :
    let s := holding (.bvPass 1 0) ⟨1, 0, false⟩ (presenting 0x0_0001_0000 false)
    1 ≤ s.inputs.length ∧ s.booted = true ∧ s.rspValid = true ∧
    ∀ e ∈ s.inputs, e.rst = false ∧ e.rspReady = false ∧ e.defined = true := by decide

theorem witness_StaleResponseFieldsCarryNoInformation :
    AgreeButStale State.reset { State.reset with rspData := 0xEA, rspRed := true } :=
  ⟨rfl, fun h => by simp [State.reset] at h, rfl, rfl, rfl⟩

/-- A block that holds the answer of BV_PASS 5 meets the invariant, and goes on. -/
theorem witness_StepKeepsResponsesPairedWithTheirCommands :
    let s := holding (.bvPass 5 0) ⟨5, 0, false⟩ EdgeInput.taking
    Inv s ∧ ∃ t, step s = .next t := by
  refine ⟨⟨?_, by simp [holding], ?_, ?_⟩, _, rfl⟩
  · intro t ht r hr
    simp only [holding, List.mem_singleton] at ht
    subst ht
    cases hr
  · intro _
    exact ⟨fun _ => ⟨_, _, rfl⟩, fun _ => rfl⟩
  · intro _ i ts h
    cases h
    exact fun _ => rfl

theorem witness_BackToBackCommandsAreAllAnsweredInOrder :
    let ws : List CmdWord := [0xA_00AF_0003, 0x2_0000_0000]
    let s := { State.reset with inputs := ws.map EdgeInput.present ++ [EdgeInput.taking] }
    s.booted = true ∧ s.rspValid = false ∧
    s.inputs = ws.map EdgeInput.present ++ [EdgeInput.taking] := ⟨rfl, rfl, rfl⟩

theorem witness_DigitStringsReadBack : (1#16) ≠ 0 := by decide

theorem witness_F8HexIsTwoDigits : (255#16).toNat < 256 ∧ 256 ≤ (256#16).toNat := by decide

theorem witness_IterateListsTheBitsOfGetbit : 15 < blen (0x8000#16).toNat := by decide

theorem witness_PseudoInstructionsExpandToTheirCommands :
    ("F8_SQR", [(0x53#16).toNat], Instr.f8Mul 0x53 0x53) ∈
      [("F8_CHECK", [(0x53#16).toNat], Instr.f8ReduceStrict 0x53 0),
       ("F8_SQR", [(0x53#16).toNat], Instr.f8Mul 0x53 0x53)] := by decide

theorem witness_AssemblerEncodesOrRefuses :
    (⟨"BV_LEN", 0x1, 1, false⟩ : AsmRow) ∈ commandRows ∧
    ([65535].length ≤ 1 ∧ ∀ v ∈ [65535], v < 2 ^ 16) ∧
    (1 < [1, 2].length ∨ ∃ v ∈ [1, 2], 2 ^ 16 ≤ v) ∧ (∃ v ∈ [65536], 2 ^ 16 ≤ v) := by decide

end Sys2Proof.Tests
end

section
/-! SUPPORT. A request of plain integers on the ports (00_scope.md R9). -/

namespace Sys2Proof

theorem fitsUnsigned_iff {w : Nat} {v : Int} : fitsUnsigned w v = true ↔ 0 ≤ v ∧ v < 2 ^ w := by
  simp [fitsUnsigned]

/-- An integer that fits a field reads back from it unchanged. -/
theorem toNat_ofInt_of_fitsUnsigned {w : Nat} {v : Int} (h : fitsUnsigned w v = true) :
    ((BitVec.ofInt w v).toNat : Int) = v := by
  obtain ⟨hpos, hlt⟩ := fitsUnsigned_iff.mp h
  rw [BitVec.toNat_ofInt, Nat.cast_pow, Nat.cast_ofNat, Int.emod_eq_of_lt hpos hlt,
    Int.toNat_of_nonneg hpos]

theorem wellFormed_iff {r : Request} : r.wellFormed = true ↔
    fitsUnsigned Config.opW r.op = true ∧ fitsUnsigned Config.dataW r.a = true ∧
      fitsUnsigned Config.dataW r.b = true := by
  simp [Request.wellFormed, and_assoc]

theorem present_of_wellFormed {r : Request} (h : r.wellFormed = true) :
    r.present = .ok (mkWord (BitVec.ofInt 4 r.op) (BitVec.ofInt 16 r.a) (BitVec.ofInt 16 r.b)) := by
  rw [Request.present, (check_eq_ok_iff r).mpr h]

theorem present_of_not_wellFormed {r : Request} (h : r.wellFormed = false) :
    ∃ e, r.present = .error e := by
  cases hc : r.check with
  | error e => exact ⟨e, by rw [Request.present, hc]⟩
  | ok u =>
    have hwf : r.wellFormed = true := (check_eq_ok_iff r).mp hc
    rw [h] at hwf
    cases hwf

/-- Settles O6: the checks pass exactly on the requests that fit, and a field that fits reads back from
the word presented. -/
theorem requestsBeyondThePortsAreRefused : Obligations.RequestsBeyondThePortsAreRefused := by
  refine fun r => ⟨present_of_not_wellFormed, fun h => ⟨_, present_of_wellFormed h, ?_⟩⟩
  obtain ⟨hop, ha, hb⟩ := wellFormed_iff.mp h
  rw [wordOp_mkWord, wordA_mkWord, wordB_mkWord]
  exact ⟨toNat_ofInt_of_fitsUnsigned hop, toNat_ofInt_of_fitsUnsigned ha,
    toNat_ofInt_of_fitsUnsigned hb⟩

end Sys2Proof
end

section
/-! SUPPORT. `Exec(op, A, B)` as a function of the command (00_scope.md R12). -/

namespace Sys2Proof.Machine

/-- The response of a command that completes without an error (R22). -/
def okResponse (data : Nat) (red : Bool) : Response := ⟨zext16 data, noError, red⟩

/-- The response of a command that raises `e` (R131). -/
def errorResponse (e : ErrorKind) : Response := ⟨0, e.code, false⟩

/-- `Exec(op, A, B) = (data, err, red)` as a function (R12): no state stands in it. `exec_eq` ties it to
`exec`. -/
def responseOf : Instr → Response
  | .bvPass a _ => okResponse (operand a) false
  | .bvLen a _ => okResponse (blen (operand a)) false
  | .bvGetbit a b =>
    if ¬ operand b < blen (operand a) then errorResponse .indexOutOfRange
    else okResponse (bitAt (operand a) (operand b)) false
  | .bvXor a b => okResponse (operand a ^^^ operand b) false
  | .bvShl a b =>
    if operand a = 0 then okResponse 0 false
    else if blen (operand a) + operand b > Config.dataW then errorResponse .rangeOverflow
    else okResponse (operand a <<< operand b) false
  | .bvShr a b => okResponse (operand a >>> operand b) false
  | .feAdd a b => okResponse (operand a ^^^ operand b) false
  | .feMul a b =>
    if blen (clmul (operand a) (operand b)) > Config.dataW then errorResponse .rangeOverflow
    else okResponse (clmul (operand a) (operand b)) false
  | .f8Reduce a _ => okResponse (polymod (operand a)) (reduce (operand a)).2
  | .f8ReduceStrict a _ =>
    if (reduce (operand a)).2 then errorResponse .invariantViolation
    else okResponse (polymod (operand a)) false
  | .f8Mul a b =>
    if (reduce (operand b)).2 then errorResponse .invariantViolation
    else okResponse (polymod (clmul (polymod (operand a)) (operand b)))
      (reduce (clmul (polymod (operand a)) (operand b))).2
  | .reservedB _ _ | .reservedC _ _ | .reservedD _ _ | .reservedE _ _ | .reservedF _ _ =>
    errorResponse .illegalOperation

/-- Loading one of two responses is a choice between two loads. -/
theorem next_writeResponse_ite (c : Prop) [Decidable c] (s : State) (r r' : Response) :
    (.next (s.writeResponse (if c then r else r')) : Result) =
      if c then .next (s.writeResponse r) else .next (s.writeResponse r') :=
  apply_ite (fun r => (.next (s.writeResponse r) : Result)) c r r'

/-- The whole effect of a command, in every state, is to load its response. A command without a condition
is one `respond` or `raise`; the others choose between several by a condition on the operands alone. -/
theorem exec_eq (i : Instr) (s : State) : exec i s = .next (s.writeResponse (responseOf i)) := by
  cases i with
  | bvGetbit a b | feMul a b | f8ReduceStrict a b | f8Mul a b =>
    rw [responseOf, next_writeResponse_ite]; rfl
  | bvShl a b => rw [responseOf, next_writeResponse_ite, next_writeResponse_ite]; rfl
  | bvPass a b | bvLen a b | bvXor a b | bvShr a b | feAdd a b | f8Reduce a b => rfl
  | reservedB a b | reservedC a b | reservedD a b | reservedE a b | reservedF a b => rfl

theorem answers_responseOf (i : Instr) : Answers i (responseOf i) := exec_eq i

/-- Settles O9: the one response is `responseOf`. -/
theorem responseDependsOnTheCommandAlone : Obligations.ResponseDependsOnTheCommandAlone :=
  fun i => ⟨responseOf i, answers_responseOf i⟩

end Sys2Proof.Machine
end

section
/-! SUPPORT. What the commands do to State, read off `exec_eq` (10_state.md R21, R22), and the two states
in which a run can begin (R34, R151). -/

namespace Sys2Proof.Machine

/-- Settles O8: a command loads one response, and `writeResponse` keeps every other field. -/
theorem everyCommandChangesOnlyTheResponseRegister :
    Obligations.EveryCommandChangesOnlyTheResponseRegister :=
  fun i s => ⟨s.writeResponse (responseOf i), exec_eq i s, writeResponse_rspValid _ _,
    writeResponse_booted _ _, writeResponse_inputs _ _, writeResponse_log _ _⟩

/-- While `rst` is 1 the block is not ready (R34, R155). -/
theorem cmdReady_of_rst (s : State) {e : EdgeInput} (h : e.rst = true) : s.cmdReady e = false := by
  simp [State.cmdReady, h]

/-- Settles O41: the values are those `State.reset` is made of. -/
theorem resetStateHoldsTheSpecsValues : Obligations.ResetStateHoldsTheSpecsValues :=
  ⟨rfl, rfl, rfl, rfl, rfl, rfl, fun _ h => cmdReady_of_rst _ h⟩

/-- With an empty record no response is paired with anything, so a block that holds none once it is
booted meets the invariant. -/
theorem inv_of_log_nil {s : State} (hlog : s.log = []) (hvalid : s.booted = true → s.rspValid = false) :
    Inv s where
  taken_answers := by simp [hlog]
  earlier_settled := by simp [hlog]
  valid_iff_outstanding := fun hb => by simp [hlog, hvalid hb]
  held_answers := by simp [hlog]

/-- Settles O54: both states have an empty record; the one is booted and holds no response, the other is
not booted. -/
theorem resetAndPowerUpMeetTheInvariant : Obligations.ResetAndPowerUpMeetTheInvariant :=
  ⟨inv_of_log_nil rfl fun _ => rfl, inv_of_log_nil rfl fun h => absurd h Bool.false_ne_true⟩

end Sys2Proof.Machine
end

section
/-! SUPPORT. States that differ only in stale response fields (10_state.md R30): they meet the same edge,
and every part of an edge keeps them so. -/

namespace Sys2Proof.Machine.AgreeButStale

variable {s t : State}

theorem edge_eq (h : AgreeButStale s t) : s.edge = t.edge := by
  obtain ⟨-, -, -, hinputs, -⟩ := h
  rw [State.edge, State.edge, hinputs]

theorem takes_eq (h : AgreeButStale s t) (e : EdgeInput) : s.takes e = t.takes e := by
  obtain ⟨hvalid, -⟩ := h
  rw [State.takes, State.takes, hvalid]

theorem accepts_eq (h : AgreeButStale s t) (e : EdgeInput) : s.accepts e = t.accepts e := by
  obtain ⟨hvalid, -⟩ := h
  rw [State.accepts, State.accepts, State.cmdReady, State.cmdReady, hvalid]

theorem usedTooEarly_eq (h : AgreeButStale s t) : s.usedTooEarly = t.usedTooEarly := by
  rw [State.usedTooEarly, State.usedTooEarly, h.edge_eq]
  obtain ⟨-, -, hbooted, -⟩ := h
  rw [hbooted]

theorem resetEdge (h : AgreeButStale s t) : AgreeButStale s.resetEdge t.resetEdge := by
  obtain ⟨-, -, -, hinputs, hlog⟩ := h
  simp [AgreeButStale, hinputs, hlog]

theorem advance (h : AgreeButStale s t) : AgreeButStale s.advance t.advance := by
  obtain ⟨hvalid, hresponse, hbooted, hinputs, hlog⟩ := h
  exact ⟨hvalid, hresponse, hbooted, congrArg List.tail hinputs, hlog⟩

/-- A response that is taken is no stale one, so the two records stay equal. -/
theorem takeResponse (h : AgreeButStale s t) (hv : s.rspValid = true) :
    AgreeButStale s.takeResponse t.takeResponse := by
  obtain ⟨-, hresponse, hbooted, hinputs, hlog⟩ := h
  exact ⟨rfl, fun h => absurd h Bool.false_ne_true, hbooted, hinputs, by simp [hresponse hv, hlog]⟩

theorem afterTake (h : AgreeButStale s t) : AgreeButStale s.afterTake t.afterTake := by
  rw [State.afterTake, State.afterTake, ← h.edge_eq, ← h.takes_eq]
  split
  next htakes =>
    have hv : s.rspValid = true := by simp_all [State.takes]
    exact (h.takeResponse hv).advance
  next => exact h.advance

theorem recordAccepted (h : AgreeButStale s t) (i : Instr) :
    AgreeButStale (s.recordAccepted i) (t.recordAccepted i) := by
  obtain ⟨hvalid, hresponse, hbooted, hinputs, hlog⟩ := h
  exact ⟨hvalid, hresponse, hbooted, hinputs, congrArg (List.cons _) hlog⟩

theorem writeResponse (h : AgreeButStale s t) (r : Response) :
    AgreeButStale (s.writeResponse r) (t.writeResponse r) := by
  obtain ⟨-, -, hbooted, hinputs, hlog⟩ := h
  exact ⟨rfl, fun _ => rfl, hbooted, hinputs, hlog⟩

end Sys2Proof.Machine.AgreeButStale

namespace Sys2Proof.Machine

/-- Settles O52: the two states take the same branch of the edge, which the lemmas on `step` tell apart. -/
theorem staleResponseFieldsCarryNoInformation : Obligations.StaleResponseFieldsCarryNoInformation := by
  intro s t h
  cases hr : s.edge.rst
  case true =>
    exact .inl ⟨_, _, step_of_rst hr, step_of_rst (h.edge_eq ▸ hr), h.resetEdge⟩
  cases hu : s.usedTooEarly
  case true =>
    exact .inr ⟨_, step_of_usedTooEarly hr hu,
      step_of_usedTooEarly (h.edge_eq ▸ hr) (h.usedTooEarly_eq ▸ hu)⟩
  have hr' : t.edge.rst = false := h.edge_eq ▸ hr
  have hu' : t.usedTooEarly = false := h.usedTooEarly_eq ▸ hu
  cases hv : s.edge.cmdValid
  case false =>
    exact .inl ⟨_, _, step_of_no_command hr hu hv, step_of_no_command hr' hu' (h.edge_eq ▸ hv),
      h.afterTake⟩
  cases hc : s.edge.command with
  | none =>
    exact .inr ⟨_, step_of_unknown hr hu hv hc,
      step_of_unknown hr' hu' (h.edge_eq ▸ hv) (h.edge_eq ▸ hc)⟩
  | some w =>
    have hc' : t.edge.command = some w := h.edge_eq ▸ hc
    have haccepts : t.accepts t.edge = s.accepts s.edge := by rw [h.accepts_eq, h.edge_eq]
    cases ha : s.accepts s.edge
    case false =>
      exact .inl ⟨_, _, step_of_stall hr hu hc ha, step_of_stall hr' hu' hc' (haccepts.trans ha),
        h.afterTake⟩
    case true =>
      exact .inl ⟨_, _, (step_of_accept hu hc ha).trans (exec_eq _ _),
        (step_of_accept hu' hc' (haccepts.trans ha)).trans (exec_eq _ _),
        (h.afterTake.recordAccepted _).writeResponse _⟩

end Sys2Proof.Machine
end

section
/-! SUPPORT. The bit length of shifts and of sums over GF(2) (10_state.md R10; 40_bitvector.md R78). -/

namespace Sys2Proof.Machine

/-- A nonzero value shifted left by `n` has `n` more bits. -/
theorem blen_shiftLeft {v : Nat} (h : v ≠ 0) (n : Nat) : blen (v <<< n) = blen v + n := by
  have hlog : (v <<< n).log2 = v.log2 + n := by
    rw [Nat.log2_eq_iff (by simpa using h), Nat.shiftLeft_eq]
    obtain ⟨hle, hlt⟩ := (Nat.log2_eq_iff h).mp rfl
    constructor
    · rw [pow_add]
      exact Nat.mul_le_mul_right _ hle
    · rw [show v.log2 + n + 1 = v.log2 + 1 + n by omega, pow_add]
      exact Nat.mul_lt_mul_of_pos_right hlt (Nat.two_pow_pos n)
  rw [blen_pos (by simpa using h), blen_pos h, hlog, Nat.add_right_comm]

/-- In a sum the top bit of the longer operand meets no other, and stays. -/
theorem blen_xor_of_lt {x y : Nat} (h : blen x < blen y) : blen (x ^^^ y) = blen y := by
  have hy : y ≠ 0 := fun h0 => by simp [h0] at h
  have htop : (x ^^^ y).testBit (blen y - 1) = true := by
    rw [Nat.testBit_xor, testBit_blen_sub_one hy, testBit_of_blen_le (by omega)]
    rfl
  apply le_antisymm
  · exact blen_le_iff.mpr (Nat.xor_lt_two_pow (blen_le_iff.mp h.le) (lt_two_pow_blen y))
  · have := lt_blen_iff.mpr (Nat.ge_two_pow_of_testBit htop)
    omega

/-- A value whose top position is clear needs one bit less. -/
theorem blen_le_of_testBit_false {v k : Nat} (h : blen v ≤ k + 1) (hk : v.testBit k = false) :
    blen v ≤ k := by
  by_contra hlt
  have := Nat.testBit_of_two_pow_le_and_two_pow_add_one_gt (lt_blen_iff.mp (not_le.mp hlt))
    (blen_le_iff.mp h)
  rw [hk] at this
  cases this

/-- Two equal top bits cancel in a sum. -/
theorem blen_xor_le_of_testBit {x y k : Nat} (hx : blen x ≤ k + 1) (hy : blen y ≤ k + 1)
    (hxk : x.testBit k = true) (hyk : y.testBit k = true) : blen (x ^^^ y) ≤ k := by
  apply blen_le_of_testBit_false
  · exact blen_le_iff.mpr (Nat.xor_lt_two_pow (blen_le_iff.mp hx) (blen_le_iff.mp hy))
  · rw [Nat.testBit_xor, hxk, hyk]
    rfl

end Sys2Proof.Machine
end

section
/-! SUPPORT. The reduction scan (42_field8.md R102 to R104): each step of a pass clears its position, so
one pass reduces, and the flag is the size test. -/

namespace Sys2Proof.Machine

/-- REDUCTION_POLY aligned at position `8 + n` has its top bit there. -/
theorem testBit_reductionPoly_shift (n : Nat) :
    (Config.reductionPoly <<< n).testBit (Config.fieldBits + n) = true := by
  simp only [Nat.testBit_shiftLeft, Nat.add_sub_cancel, ge_iff_le, Nat.le_add_left, decide_true,
    Bool.true_and]
  decide

theorem blen_reductionPoly_shift (n : Nat) :
    blen (Config.reductionPoly <<< n) = Config.fieldBits + n + 1 := by
  rw [blen_shiftLeft (by decide), show blen Config.reductionPoly = Config.fieldBits + 1 from rfl,
    Nat.add_right_comm]

/-- The step at the top position leaves that position clear. -/
theorem blen_reduceStep_le {v n : Nat} (h : blen v ≤ Config.fieldBits + (n + 1)) (red : Bool) :
    blen (reduceStep v (Config.fieldBits + n) (v, red)).1 ≤ Config.fieldBits + n := by
  cases hbit : v.testBit (Config.fieldBits + n)
  case false =>
    rw [reduceStep_of_clear hbit]
    exact blen_le_of_testBit_false h hbit
  case true =>
    rw [reduceStep_of_set hbit, Nat.add_sub_cancel_left]
    exact blen_xor_le_of_testBit h (blen_reductionPoly_shift n).le hbit
      (testBit_reductionPoly_shift n)

/-- A pass over all positions a value has above the field leaves a field-valid value. -/
theorem blen_reducePass_le {n : Nat} {st : Nat × Bool} (h : blen st.1 ≤ Config.fieldBits + n) :
    blen (reducePass n st).1 ≤ Config.fieldBits := by
  induction n generalizing st with
  | zero => exact h
  | succ n ih => exact ih (blen_reduceStep_le h st.2)

/-- Positions above the bit length take no step. -/
theorem reducePass_of_blen_le {v m n : Nat} (hv : blen v ≤ Config.fieldBits + m) (hmn : m ≤ n)
    (red : Bool) : reducePass n (v, red) = reducePass m (v, red) := by
  induction n, hmn using Nat.le_induction with
  | base => rfl
  | succ n hmn ih =>
    have hclear : v.testBit (Config.fieldBits + n) = false := testBit_of_blen_le (by omega)
    rw [reducePass_succ, reduceStep_of_clear hclear, ih]

/-- The loop ends after its first pass. -/
theorem reduceLoop_eq_reducePass {v fuel : Nat} (hv : Config.fieldBits < blen v) (hfuel : fuel ≠ 0)
    (red : Bool) :
    reduceLoop fuel (v, red) = reducePass (blen v - Config.fieldBits) (v, red) := by
  obtain ⟨k, rfl⟩ := Nat.exists_eq_succ_of_ne_zero hfuel
  have hvalid : blen (reducePass (blen v - Config.fieldBits) (v, red)).1 ≤ Config.fieldBits :=
    blen_reducePass_le (Nat.add_sub_of_le hv.le).ge
  rw [reduceLoop_succ hv, reduceLoop_of_fieldValid hvalid]

/-- One pass that begins at or above the top bit is the whole reduction (R103). -/
theorem reducePass_eq_reduce {v n : Nat} (h : blen v ≤ Config.fieldBits + n) :
    reducePass n (v, false) = reduce v := by
  rw [reducePass_of_blen_le (m := blen v - Config.fieldBits) (by omega) (by omega), reduce]
  by_cases hv : blen v ≤ Config.fieldBits
  · rw [reduceLoop_of_fieldValid hv, Nat.sub_eq_zero_of_le hv, reducePass_zero]
  · rw [reduceLoop_eq_reducePass (not_le.mp hv) (by omega)]

/-- The engine leaves a field element (R101). -/
theorem polymod_lt (v : Nat) : polymod v < 256 := by
  have h : blen v ≤ Config.fieldBits + blen v := Nat.le_add_left _ _
  rw [polymod, ← reducePass_eq_reduce h]
  exact blen_le_iff.mp (blen_reducePass_le h)

/-- A pass raises the flag iff the value is 256 or more: the first step taken is at its top bit. -/
theorem reducePass_snd {v n : Nat} (h : blen v ≤ Config.fieldBits + n) (red : Bool) :
    (reducePass n (v, red)).2 = (red || decide (256 ≤ v)) := by
  induction n generalizing v red with
  | zero =>
    have hv : v < 256 := blen_le_iff.mp h
    simp [hv]
  | succ n ih =>
    have hstep := blen_reduceStep_le h red
    rw [reducePass_succ]
    cases hbit : v.testBit (Config.fieldBits + n)
    case false =>
      rw [reduceStep_of_clear hbit] at hstep ⊢
      exact ih hstep red
    case true =>
      have hv : 256 ≤ v :=
        (Nat.pow_le_pow_right two_pos (Nat.le_add_right 8 n)).trans (Nat.ge_two_pow_of_testBit hbit)
      rw [reduceStep_of_set hbit] at hstep ⊢
      rw [ih hstep true]
      simp [hv]

/-- The flag is the size test (R104). -/
theorem reduce_snd (v : Nat) : (reduce v).2 = decide (256 ≤ v) := by
  rw [← reducePass_eq_reduce (n := blen v) (Nat.le_add_left _ _),
    reducePass_snd (Nat.le_add_left _ _), Bool.false_or]

/-- The flag of each command's response. A command without a reduction shows 0 whether it completes or
raises an error (R23). -/
theorem responseOf_red (i : Instr) : (responseOf i).red = reductionFlagOf i := by
  cases i with
  | f8Reduce a b => exact reduce_snd _
  | f8Mul a b =>
    have hb : (reduce (operand b)).2 = decide (256 ≤ b.toNat) := reduce_snd _
    have hp := reduce_snd (clmul (polymod (operand a)) (operand b))
    rw [responseOf, hb, reductionFlagOf]
    by_cases h : 256 ≤ b.toNat
    · simp [h, errorResponse]
    · simp only [h, not_le.mp h, okResponse, hp, decide_false, Bool.false_eq_true, if_false, true_and]
      rfl
  | bvGetbit a b | feMul a b | f8ReduceStrict a b =>
    rw [responseOf]
    split <;> rfl
  | bvShl a b =>
    rw [responseOf]
    split
    · rfl
    · split <;> rfl
  | bvPass a b | bvLen a b | bvXor a b | bvShr a b | feAdd a b => rfl
  | reservedB a b | reservedC a b | reservedD a b | reservedE a b | reservedF a b => rfl

/-- Settles O13: the flag loaded is that of `responseOf`. -/
theorem reductionFlagMarksAReductionThatChangedTheValue :
    Obligations.ReductionFlagMarksAReductionThatChangedTheValue :=
  fun i s => ⟨s.writeResponse (responseOf i), exec_eq i s, responseOf_red i⟩

end Sys2Proof.Machine
end

section
/-! SUPPORT. The reduction engine at port width (10_state.md R32) runs the pass of R102. -/

namespace Sys2Proof.Machine

/-- The value and the flag of the engine as the scan of R102 has them. -/
def scanState (st : Data × Bool) : Nat × Bool := (st.1.toNat, st.2)

/-- The last `n` stages of the engine, positions `FIELD_BITS + n - 1` down to `FIELD_BITS`. -/
def engineStages : Nat → Data × Bool → Data × Bool
  | 0, st => st
  | n + 1, st => engineStages n (engineStage (Config.fieldBits + n) st)

theorem reductionEngine_eq (v : Data) : reductionEngine v =
    ((engineStages 8 (v, false)).1.setWidth 8, (engineStages 8 (v, false)).2) := rfl

/-- At the positions of a 16-bit value the aligned polynomial keeps all its bits. -/
theorem toNat_reductionPoly_shift {n : Nat} (h : n < 8) :
    (0x11B#16 <<< n).toNat = Config.reductionPoly <<< n := by
  rw [BitVec.toNat_shiftLeft]
  apply Nat.mod_eq_of_lt
  rw [← blen_le_iff]
  change blen (Config.reductionPoly <<< n) ≤ 16
  rw [blen_reductionPoly_shift]
  change 8 + n + 1 ≤ 16
  omega

/-- A stage is a step of the scan that reads the current value (R103). -/
theorem scanState_engineStage {n : Nat} (h : n < 8) (st : Data × Bool) :
    scanState (engineStage (Config.fieldBits + n) st) =
      reduceStep st.1.toNat (Config.fieldBits + n) (scanState st) := by
  cases hbit : st.1.toNat.testBit (Config.fieldBits + n)
  case false =>
    rw [reduceStep_of_clear hbit, engineStage, BitVec.getLsbD, hbit]
    rfl
  case true =>
    rw [reduceStep_of_set hbit, engineStage, BitVec.getLsbD, hbit, Nat.add_sub_cancel_left,
      ← toNat_reductionPoly_shift h, scanState, scanState, ← BitVec.toNat_xor]
    simp [Config.fieldBits]

theorem scanState_engineStages {n : Nat} (h : n ≤ 8) (st : Data × Bool) :
    scanState (engineStages n st) = reducePass n (scanState st) := by
  induction n generalizing st with
  | zero => rfl
  | succ n ih =>
    rw [engineStages, ih (by omega), scanState_engineStage (by omega), reducePass_succ]
    rfl

/-- The eight stages of the engine are the whole reduction of a 16-bit value. -/
theorem scanState_engineStages_eq_reduce (v : Data) :
    scanState (engineStages 8 (v, false)) = reduce v.toNat := by
  rw [scanState_engineStages le_rfl]
  exact reducePass_eq_reduce (blen_operand_le v)

/-- The 8-bit output port drops nothing of a reduced value. -/
theorem reductionEngine_eq_reduce (v : Data) :
    ((reductionEngine v).1.toNat, (reductionEngine v).2) = reduce v.toNat := by
  have hreduce := scanState_engineStages_eq_reduce v
  have hlt : (engineStages 8 (v, false)).1.toNat < 2 ^ 8 := by
    have hpolymod := polymod_lt v.toNat
    rwa [polymod, ← hreduce] at hpolymod
  rw [← hreduce, reductionEngine_eq, scanState, BitVec.toNat_setWidth, Nat.mod_eq_of_lt hlt]

/-- Settles O40: value and flag of the engine are those of `reduce`. -/
theorem reductionEngineComputesPolymod : Obligations.ReductionEngineComputesPolymod := by
  intro v
  have h := reductionEngine_eq_reduce v
  refine ⟨?_, ?_, h⟩
  · rw [polymod, ← h]
  · rw [← reduce_snd, ← h]

end Sys2Proof.Machine
end

section
/-! SUPPORT. The ports of `bitvector_xor_and_shift` (10_state.md R31), select by select, and the BitVector
commands. -/

namespace Sys2Proof.Machine

variable (a b : Data) (sel : BitVec 3)

theorem datapath_pass_y : (bitvectorXorAndShift 0 a b).y = a := rfl

theorem datapath_xor_y : (bitvectorXorAndShift 1 a b).y = a ^^^ b := rfl

theorem datapath_shr_y : (bitvectorXorAndShift 3 a b).y = a >>> b.toNat := rfl

theorem bvSelect_shl : bvSelect 2 a b =
    if 16 < blen (a.toNat <<< b.toNat) then (0, true) else (zext16 (a.toNat <<< b.toNat), false) := rfl

theorem datapath_shl_ovf :
    (bitvectorXorAndShift 2 a b).ovf = decide (16 < blen (a.toNat <<< b.toNat)) := by
  rw [bitvectorXorAndShift, bvSelect_shl]
  by_cases h : 16 < blen (a.toNat <<< b.toNat) <;> simp [h]

variable {a b} in
/-- Without an overflow the shifted value is on the port. -/
theorem datapath_shl_y (h : blen (a.toNat <<< b.toNat) ≤ 16) :
    (bitvectorXorAndShift 2 a b).y = zext16 (a.toNat <<< b.toNat) := by
  rw [bitvectorXorAndShift, bvSelect_shl, if_neg (not_lt.mpr h)]

theorem datapath_len :
    (bitvectorXorAndShift sel a b).len.setWidth 16 = zext16 (blen a.toNat) := by
  have h : blen a.toNat ≤ 16 := blen_operand_le a
  apply BitVec.eq_of_toNat_eq
  rw [BitVec.toNat_setWidth, bitvectorXorAndShift, BitVec.toNat_ofNat, zext16, BitVec.toNat_ofNat]
  omega

theorem datapath_oor : (bitvectorXorAndShift sel a b).oor = !decide (b.toNat < blen a.toNat) := rfl

variable {a b} in
/-- Below the bit length the bit port shows the bit. -/
theorem datapath_bit (h : b.toNat < blen a.toNat) :
    (bitvectorXorAndShift sel a b).bit = a.toNat.testBit b.toNat := if_pos h

/-- BV_GETBIT is out of range where the port says so, and else returns the bit on the port (R73). -/
theorem responseOf_bvGetbit : responseOf (.bvGetbit a b) =
    if (bitvectorXorAndShift sel a b).oor then ⟨0, 2, false⟩
    else ⟨if (bitvectorXorAndShift sel a b).bit then 1 else 0, 0, false⟩ := by
  rw [responseOf, datapath_oor]
  by_cases h : b.toNat < blen a.toNat
  · rw [datapath_bit sel h, bitAt_eq]
    cases hbit : a.toNat.testBit b.toNat <;> simp [h, hbit, operand, okResponse, noError, zext16]
  · simp [h, operand, errorResponse, ErrorKind.code]

/-- The two readings of BV_SHL's overflow agree: R75 adds the amount to the bit length, R31 takes the bit
length of the shifted value. For A = 0 neither overflows. -/
theorem responseOf_bvShl : responseOf (.bvShl a b) =
    if (bitvectorXorAndShift 2 a b).ovf then ⟨0, 4, false⟩
    else ⟨(bitvectorXorAndShift 2 a b).y, 0, false⟩ := by
  rw [responseOf, datapath_shl_ovf]
  by_cases h0 : a.toNat = 0
  · rw [datapath_shl_y (by simp [h0])]
    simp [h0, operand, okResponse, noError]
  · rw [if_neg (show ¬ operand a = 0 from h0), operand, operand, ← blen_shiftLeft h0]
    by_cases h : 16 < blen (a.toNat <<< b.toNat)
    · simp [h, Config.dataW, errorResponse, ErrorKind.code]
    · rw [datapath_shl_y (not_lt.mp h)]
      simp [h, Config.dataW, okResponse, noError]

theorem responseOf_bvPass : responseOf (.bvPass a b) = ⟨a, 0, false⟩ := by
  rw [responseOf, okResponse, zext16_operand, noError]

theorem responseOf_bvXor : responseOf (.bvXor a b) = ⟨a ^^^ b, 0, false⟩ := by
  rw [responseOf, okResponse, zext16_operand_xor, noError]

theorem responseOf_bvShr : responseOf (.bvShr a b) = ⟨a >>> b.toNat, 0, false⟩ := by
  have hlt : a.toNat >>> b.toNat < 2 ^ 16 := (Nat.shiftRight_le _ _).trans_lt a.isLt
  have hdata : zext16 (a.toNat >>> b.toNat) = a >>> b.toNat := by
    apply BitVec.eq_of_toNat_eq
    rw [zext16_toNat hlt, BitVec.toNat_ushiftRight]
  rw [responseOf, okResponse, operand, operand, hdata, noError]

/-- Settles O38: `responseOf` of each command is what the ports show. -/
theorem bitVectorCommandsAreTheDatapathOutputs :
    Obligations.BitVectorCommandsAreTheDatapathOutputs := by
  intro a b s
  refine ⟨?pass, ?len, ?getbit, ?xor, ?shl, ?shr⟩
  case pass => rw [exec_eq, responseOf_bvPass, datapath_pass_y]
  case len => rw [exec_eq, datapath_len]; rfl
  case getbit => rw [exec_eq, responseOf_bvGetbit a b 0, next_writeResponse_ite]
  case xor => rw [exec_eq, responseOf_bvXor, datapath_xor_y]
  case shl => rw [exec_eq, responseOf_bvShl, next_writeResponse_ite]
  case shr => rw [exec_eq, responseOf_bvShr, datapath_shr_y]

end Sys2Proof.Machine
end

section
/-! SUPPORT. The carry-less multiplier at port width (10_state.md R33): bit by bit of `b` it computes the
partial product of R92, and overflows where that does not fit. -/

namespace Sys2Proof.Machine

/-- A partial product is shorter than the next shifted copy of a nonzero `a`. -/
theorem blen_clmulBelow_lt {a : Nat} (ha : a ≠ 0) (b n : Nat) :
    blen (clmulBelow a b n) < blen (a <<< n) := by
  induction n with
  | zero => simpa [Nat.pos_iff_ne_zero, blen_eq_zero_iff] using ha
  | succ n ih =>
    have hgrow : blen (a <<< n) < blen (a <<< (n + 1)) := by
      rw [blen_shiftLeft ha, blen_shiftLeft ha]
      omega
    rw [clmulBelow_succ]
    split
    · rwa [blen_xor_of_lt ih]
    · exact ih.trans hgrow

/-- Adding a shifted copy of `a`, 0 too, gives the longer of the two bit lengths: nothing cancels at the
top. So a product that does not fit cannot come to fit again (R93). -/
theorem blen_clmulBelow_xor_shiftLeft (a b n : Nat) :
    blen (clmulBelow a b n ^^^ a <<< n) = max (blen (clmulBelow a b n)) (blen (a <<< n)) := by
  by_cases ha : a = 0
  · simp [ha]
  · have hlt := blen_clmulBelow_lt ha b n
    rw [blen_xor_of_lt hlt, max_eq_right hlt.le]

/-- Bit `n` of `b` adds the shifted copy from the SHL function, and its overflow. -/
theorem multiplierBelow_succ (a b : Data) (n : Nat) : multiplierBelow a b (n + 1) =
    if b.toNat.testBit n then
      ((multiplierBelow a b n).1 ^^^ (bitvectorXorAndShift 2 a (BitVec.ofNat 16 n)).y,
        (multiplierBelow a b n).2 || (bitvectorXorAndShift 2 a (BitVec.ofNat 16 n)).ovf)
    else multiplierBelow a b n := rfl

/-- After `n` bits of `b` the multiplier has overflowed iff the partial product has more than 16 bits, and
else holds it. -/
theorem multiplierBelow_spec (a b : Data) {n : Nat} (hn : n ≤ 16) :
    (multiplierBelow a b n).2 = decide (16 < blen (clmulBelow a.toNat b.toNat n)) ∧
    (blen (clmulBelow a.toNat b.toNat n) ≤ 16 →
      (multiplierBelow a b n).1.toNat = clmulBelow a.toNat b.toNat n) := by
  induction n with
  | zero => simp [multiplierBelow]
  | succ n ih =>
    obtain ⟨hovf, hprod⟩ := ih (by omega)
    have hamount : (BitVec.ofNat 16 n).toNat = n := by
      rw [BitVec.toNat_ofNat]
      omega
    rw [multiplierBelow_succ, clmulBelow_succ]
    split
    · rw [blen_clmulBelow_xor_shiftLeft]
      refine ⟨?_, fun hfits => ?_⟩
      · rw [hovf, datapath_shl_ovf, hamount]
        simp
      · obtain ⟨hacc, hshift⟩ := max_le_iff.mp hfits
        rw [← hamount] at hshift
        rw [datapath_shl_y hshift, BitVec.toNat_xor, hprod hacc, zext16_toNat (blen_le_iff.mp hshift),
          hamount]
    · exact ⟨hovf, hprod⟩

/-- Settles O39: the sixteen bits of `b` are all of them. -/
theorem multiplierDatapathComputesTheCarrylessProduct :
    Obligations.MultiplierDatapathComputesTheCarrylessProduct := by
  intro a b
  have hb : blen b.toNat ≤ 16 := blen_operand_le b
  obtain ⟨hovf, hprod⟩ := multiplierBelow_spec a b le_rfl
  rw [clmulBelow_of_blen_le hb] at hovf hprod
  refine ⟨hovf, fun hno => hprod ?_⟩
  rw [carrylessMultiplier, hovf] at hno
  simpa using hno

end Sys2Proof.Machine
end

section
/-! SUPPORT. Responses and their commands (20_memory.md R44; 70_reset_and_hazards.md R162): every part of an
edge keeps `Inv`. -/

namespace Sys2Proof.Machine

/-- A host that takes a response without being refused has a booted block (R153, U4). -/
theorem booted_of_takes {s : State} (hu : s.usedTooEarly = false) (ht : s.takes s.edge = true) :
    s.booted = true := by
  simp_all [State.usedTooEarly, State.takes]

/-- A host that presents a command without being refused has a booted block (R153, U4). -/
theorem booted_of_accepts {s : State} (hu : s.usedTooEarly = false) (ha : s.accepts s.edge = true) :
    s.booted = true := by
  simp_all [State.usedTooEarly, State.accepts]

/-- The register is free for the command accepted: it was, or the host takes what it held (R155). -/
theorem afterTake_rspValid_of_accepts {s : State} (ha : s.accepts s.edge = true) :
    s.afterTake.rspValid = false := by
  cases hv : s.rspValid
  · simp [hv]
  · have ht : s.takes s.edge = true := by simp_all [State.accepts, State.cmdReady, State.takes]
    simp [ht]

namespace Inv

variable {s t : State}

theorem advance (h : Inv s) : Inv s.advance where
  taken_answers := h.taken_answers
  earlier_settled := h.earlier_settled
  valid_iff_outstanding := h.valid_iff_outstanding
  held_answers := h.held_answers

/-- Settling the outstanding command as `f` and emptying the register keeps the invariant, if a response
taken with `f` is the command's answer. -/
theorem settle (h : Inv s) {f : Fate} (hf : f ≠ .pending)
    (hanswers : ∀ i us, s.log = ⟨i, .pending⟩ :: us → ∀ r, f = .taken r → Answers i r)
    (hvalid : t.rspValid = false) (hlog : t.log = settleOutstanding f s.log) : Inv t := by
  have hhead : ∀ i us, t.log ≠ ⟨i, .pending⟩ :: us := fun i us =>
    hlog ▸ settleOutstanding_head_ne_pending i hf s.log us
  refine ⟨fun u hu r hr => ?taken, ?earlier, fun _ => ?valid, fun _ i us hpending => ?held⟩
  case taken =>
    rcases mem_settleOutstanding (hlog ▸ hu) with hmem | ⟨i, us, hpending, rfl⟩
    · exact h.taken_answers u hmem r hr
    · exact hanswers i us hpending r hr
  case earlier =>
    rw [hlog, settleOutstanding_tail]
    exact h.earlier_settled
  case valid => simp [hvalid, hhead]
  case held => exact absurd hpending (hhead i us)

/-- A reset edge loses the outstanding command, which then has no response (R152). -/
theorem resetEdge (h : Inv s) : Inv s.resetEdge :=
  h.settle (f := .lost) Fate.noConfusion (fun _ _ _ _ => Fate.noConfusion) rfl rfl

/-- The response taken is the one held, so it answers the outstanding command. -/
theorem takeResponse (h : Inv s) (hb : s.booted = true) : Inv s.takeResponse := by
  refine h.settle (f := .taken s.response) Fate.noConfusion (fun i us hpending r hr => ?_) rfl rfl
  cases hr
  exact h.held_answers hb i us hpending

theorem afterTake (h : Inv s) (hu : s.usedTooEarly = false) : Inv s.afterTake := by
  rw [State.afterTake]
  split
  next htakes => exact (h.takeResponse (booted_of_takes hu htakes)).advance
  next => exact h.advance

/-- While a booted block holds no response, no command is outstanding. -/
theorem fate_ne_pending (h : Inv s) (hb : s.booted = true) (hv : s.rspValid = false) :
    ∀ u ∈ s.log, u.fate ≠ .pending := by
  obtain ⟨-, hearlier, hvalid, -⟩ := h
  intro u hu hpending
  cases hlog : s.log with
  | nil => simp [hlog] at hu
  | cons v us =>
    rw [hlog] at hu hearlier
    rcases List.mem_cons.mp hu with rfl | htail
    · have : s.rspValid = true := (hvalid hb).mpr ⟨u.cmd, us, hpending ▸ hlog⟩
      rw [hv] at this
      cases this
    · exact hearlier u htail hpending

/-- A free register takes the answer of the command accepted, which becomes the one outstanding (R156). -/
theorem accept (h : Inv s) (hb : s.booted = true) (hv : s.rspValid = false) {i : Instr} {r : Response}
    (hanswers : Answers i r) : Inv ((s.recordAccepted i).writeResponse r) where
  taken_answers := by
    intro u hu r' hr
    rcases List.mem_cons.mp hu with rfl | hmem
    · cases hr
    · exact h.taken_answers u hmem r' hr
  earlier_settled := h.fate_ne_pending hb hv
  valid_iff_outstanding := fun _ => ⟨fun _ => ⟨i, s.log, rfl⟩, fun _ => rfl⟩
  held_answers := by
    intro _ j us hpending
    cases hpending
    exact hanswers

end Inv

/-- Settles O53: each way a step can go on keeps the invariant. -/
theorem stepKeepsResponsesPairedWithTheirCommands :
    Obligations.StepKeepsResponsesPairedWithTheirCommands := by
  intro s t h hstep
  obtain ⟨-, rfl⟩ | ⟨-, hu, -, rfl⟩ | ⟨-, hu, ha, w, -, hexec⟩ := step_next_cases hstep
  · exact h.resetEdge
  · exact h.afterTake hu
  · rw [exec_eq] at hexec
    cases hexec
    have hb : s.afterTake.booted = true := (afterTake_booted s).trans (booted_of_accepts hu ha)
    exact (h.afterTake hu).accept hb (afterTake_rspValid_of_accepts ha) (answers_responseOf _)

end Sys2Proof.Machine
end

section
/-! SUPPORT. Words and commands are in bijection (30_encoding.md R50 to R55). -/

namespace Sys2Proof

/-- The word as an unsigned integer (R50). -/
theorem toNat_mkWord (op : Opcode) (a b : Data) :
    (mkWord op a b).toNat = op.toNat * 2 ^ 32 + a.toNat * 2 ^ 16 + b.toNat := by
  have hb := b.isLt
  have ha := a.isLt
  rw [mkWord, BitVec.toNat_append, BitVec.toNat_append, ← Nat.shiftLeft_add_eq_or_of_lt hb,
    ← Nat.shiftLeft_add_eq_or_of_lt ha, Nat.shiftLeft_eq, Nat.shiftLeft_eq]
  omega

/-- A command's own opcode and fields select it in the opcode map (R54). -/
theorem decodeFields_of_fields (i : Instr) : decodeFields i.opcode i.fieldA i.fieldB = i := by
  cases i <;> simp [decodeFields, Instr.opcode, Instr.fieldA, Instr.fieldB]

/-- Each of the sixteen opcodes selects a command with that opcode, and with the fields given (R54). -/
theorem fields_decodeFields (op : Opcode) (a b : Data) :
    (decodeFields op a b).opcode = op ∧ (decodeFields op a b).fieldA = a ∧
      (decodeFields op a b).fieldB = b := by
  obtain ⟨n, hn⟩ := op
  interval_cases n <;> simp [decodeFields, Instr.opcode, Instr.fieldA, Instr.fieldB]

theorem decode_encode (i : Instr) : decode (encode i) = i := by
  rw [encode, decode_mkWord, decodeFields_of_fields]

theorem encode_decode (w : CmdWord) : encode (decode w) = w := by
  obtain ⟨hop, ha, hb⟩ := fields_decodeFields (wordOp w) (wordA w) (wordB w)
  rw [encode, decode, hop, ha, hb, mkWord_fields]

/-- Settles O4: the word carries the command's opcode and fields, and these select it. -/
theorem decodeOfEncodeIsTheCommand : Obligations.DecodeOfEncodeIsTheCommand := decode_encode

/-- Settles O5: the opcode map keeps all three fields of the word, and these make it up. -/
theorem encodeOfDecodeIsTheWord : Obligations.EncodeOfDecodeIsTheWord := encode_decode

/-- Settles O3: the word is the one made of the decoded command's fields, so they are its digits. -/
theorem decodedFieldsAreTheBitsOfTheWord : Obligations.DecodedFieldsAreTheBitsOfTheWord := by
  intro w
  have hw : w.toNat = (decode w).opcode.toNat * 2 ^ 32 + (decode w).fieldA.toNat * 2 ^ 16 +
      (decode w).fieldB.toNat := by
    rw [← toNat_mkWord, ← encode, encode_decode]
  have ha := (decode w).fieldA.isLt
  have hb := (decode w).fieldB.isLt
  omega

/-- Settles O1: the eight words evaluated. -/
theorem publishedWordsDecodeToTheirCommands : Obligations.PublishedWordsDecodeToTheirCommands := by
  unfold Obligations.PublishedWordsDecodeToTheirCommands
  decide

/-- Settles O2: each of the sixteen words is the encoding of its row's command. -/
theorem opcodeFieldAloneSelectsTheCommand : Obligations.OpcodeFieldAloneSelectsTheCommand :=
  fun a b => ⟨decode_encode (.bvPass a b), decode_encode (.bvLen a b), decode_encode (.bvGetbit a b),
    decode_encode (.bvXor a b), decode_encode (.bvShl a b), decode_encode (.bvShr a b),
    decode_encode (.feAdd a b), decode_encode (.feMul a b), decode_encode (.f8Reduce a b),
    decode_encode (.f8ReduceStrict a b), decode_encode (.f8Mul a b), decode_encode (.reservedB a b),
    decode_encode (.reservedC a b), decode_encode (.reservedD a b), decode_encode (.reservedE a b),
    decode_encode (.reservedF a b)⟩

end Sys2Proof
end

section
/-! SUPPORT. Operand fields that a command does not read (30_encoding.md R53, R57). -/

namespace Sys2Proof.Machine

/-- Commands with the same response do the same in every state. -/
theorem exec_congr {i j : Instr} (h : responseOf i = responseOf j) (s : State) :
    exec i s = exec j s := by
  rw [exec_eq, exec_eq, h]

/-- The whole next state of a command that answers IllegalOperation, code 5 (R130, R131). -/
theorem exec_of_illegalOperation {i : Instr} (h : responseOf i = errorResponse .illegalOperation)
    (s : State) :
    exec i s = .next { s with rspValid := true, rspData := 0, rspErr := 5, rspRed := false } := by
  rw [exec_eq, h]
  rfl

/-- Settles O10: no response reads the field ignored. -/
theorem ignoredOperandFieldsMakeNoDifference : Obligations.IgnoredOperandFieldsMakeNoDifference :=
  fun _ _ _ _ s => ⟨exec_congr rfl s, exec_congr rfl s, exec_congr rfl s, exec_congr rfl s,
    exec_congr rfl s, exec_congr rfl s, exec_congr rfl s, exec_congr rfl s, exec_congr rfl s⟩

/-- Settles O25: the response of each reserved row is IllegalOperation's. -/
theorem reservedOpcodesAnswerIllegalOperation : Obligations.ReservedOpcodesAnswerIllegalOperation :=
  fun _ _ s => ⟨exec_of_illegalOperation rfl s, exec_of_illegalOperation rfl s,
    exec_of_illegalOperation rfl s, exec_of_illegalOperation rfl s, exec_of_illegalOperation rfl s⟩

end Sys2Proof.Machine
end

section
/-! SUPPORT. What the assembler makes of a mnemonic and its operands (30_encoding.md R59 to R62). -/

namespace Sys2Proof.Machine

variable {row : AsmRow} {ops : List Nat}

theorem assembleInstr_of_tooMany (h : row.arity < ops.length) :
    assembleInstr row ops = .error .tooManyOperands := if_pos h

/-- The range check finds exactly the operands of 2^16 or more. -/
theorem any_outOfRange_iff :
    ops.any (fun v => decide (2 ^ Config.dataW ≤ v)) = true ↔ ∃ v ∈ ops, 2 ^ 16 ≤ v := by
  simp only [List.any_eq_true, decide_eq_true_eq]
  rfl

theorem assembleInstr_of_outOfRange (hlen : ops.length ≤ row.arity) (h : ∃ v ∈ ops, 2 ^ 16 ≤ v) :
    assembleInstr row ops = .error .operandOutOfRange := by
  rw [assembleInstr, if_neg (Nat.not_lt.mpr hlen), if_pos (any_outOfRange_iff.mpr h)]

/-- Operands that fit are put in the two fields; the second field is the first operand again where the
expansion squares it (R61, R62). -/
theorem assembleInstr_of_fits (hlen : ops.length ≤ row.arity) (h : ∀ v ∈ ops, v < 2 ^ 16) :
    assembleInstr row ops = .ok (mkWord row.op (BitVec.ofNat 16 (ops.getD 0 0))
      (BitVec.ofNat 16 (if row.squares then ops.getD 0 0 else ops.getD 1 0))) := by
  have hfit : ¬ ∃ v ∈ ops, 2 ^ 16 ≤ v := fun ⟨v, hv, hbig⟩ => absurd (h v hv) (Nat.not_lt.mpr hbig)
  rw [assembleInstr, if_neg (Nat.not_lt.mpr hlen), if_neg (any_outOfRange_iff.not.mpr hfit)]

/-- A missing operand is 0, so what is put in a field fits if every operand does (R62). -/
theorem getD_zero_lt (h : ∀ v ∈ ops, v < 2 ^ 16) (n : Nat) : ops.getD n 0 < 2 ^ 16 := by
  rcases Nat.lt_or_ge n ops.length with hn | hn
  · rw [List.getD_eq_getElem _ _ hn]
    exact h _ (List.getElem_mem hn)
  · rw [List.getD_eq_default _ _ hn]
    decide

theorem squares_of_mem_commandRows : ∀ row ∈ commandRows, row.squares = false := by decide

/-- Settles O60: the two checks part the operands into those refused and those encoded, and a command's
row puts the second operand in the second field. -/
theorem assemblerEncodesOrRefuses : Obligations.AssemblerEncodesOrRefuses := by
  refine fun row hrow ops => ⟨fun hlen hfit => ⟨_, assembleInstr_of_fits hlen hfit, ?encoded⟩, ?refused⟩
  case encoded =>
    rw [squares_of_mem_commandRows row hrow, if_neg Bool.false_ne_true, toNat_mkWord,
      BitVec.toNat_ofNat, BitVec.toNat_ofNat, Nat.mod_eq_of_lt (getD_zero_lt hfit 0),
      Nat.mod_eq_of_lt (getD_zero_lt hfit 1)]
  case refused =>
    intro h
    rcases Nat.lt_or_ge row.arity ops.length with hmany | hlen
    · exact ⟨_, assembleInstr_of_tooMany hmany⟩
    · exact ⟨_, assembleInstr_of_outOfRange hlen (h.resolve_left (Nat.not_lt.mpr hlen))⟩

/-- One operand: the second field is it again where the expansion squares it, else 0 (R61, R62). -/
theorem assembleInstr_one (a : Data) (hrow : 1 ≤ row.arity) :
    assembleInstr row [a.toNat] = .ok (mkWord row.op a (if row.squares then a else 0)) := by
  rw [assembleInstr_of_fits (ops := [a.toNat]) hrow (by simpa using a.isLt)]
  cases row.squares <;> simp

/-- Two operands: each in its field (R62). -/
theorem assembleInstr_two (a b : Data) (hrow : 2 ≤ row.arity) (hsq : row.squares = false) :
    assembleInstr row [a.toNat, b.toNat] = .ok (mkWord row.op a b) := by
  rw [assembleInstr_of_fits (ops := [a.toNat, b.toNat]) hrow (by simpa using ⟨a.isLt, b.isLt⟩), hsq]
  simp

/-- Settles O59: each name is found in the table, and its row puts the operands where its command has
them. -/
theorem pseudoInstructionsExpandToTheirCommands :
    Obligations.PseudoInstructionsExpandToTheirCommands := by
  intro a b name ops i hmem
  simp only [List.mem_cons, Prod.mk.injEq, List.not_mem_nil, or_false] at hmem
  obtain ⟨rfl, rfl, rfl⟩ | ⟨rfl, rfl, rfl⟩ | ⟨rfl, rfl, rfl⟩ | ⟨rfl, rfl, rfl⟩ | ⟨rfl, rfl, rfl⟩ |
    ⟨rfl, rfl, rfl⟩ | ⟨rfl, rfl, rfl⟩ | ⟨rfl, rfl, rfl⟩ := hmem
  · exact ⟨_, rfl, assembleInstr_one a le_rfl⟩
  · exact ⟨_, rfl, assembleInstr_one a le_rfl⟩
  · exact ⟨_, rfl, assembleInstr_one a le_rfl⟩
  · exact ⟨_, rfl, assembleInstr_one a le_rfl⟩
  · exact ⟨_, rfl, assembleInstr_two a b le_rfl rfl⟩
  · exact ⟨_, rfl, assembleInstr_two a b le_rfl rfl⟩
  · exact ⟨_, rfl, assembleInstr_one a le_rfl⟩
  · exact ⟨_, rfl, assembleInstr_one a le_rfl⟩

end Sys2Proof.Machine
end

section
/-! SUPPORT. The laws of the bit length (40_bitvector.md R78) beside those of shifts and sums above. Each
compares bounds: by `blen_le_iff` the bit length is known once it is known which powers of 2 exceed the
value. -/

namespace Sys2Proof.Machine

/-- A sum is no longer than the longer operand. -/
theorem blen_xor_le_max (a b : Nat) : blen (a ^^^ b) ≤ max (blen a) (blen b) :=
  blen_le_iff.mpr (Nat.xor_lt_two_pow (blen_le_iff.mp (le_max_left _ _))
    (blen_le_iff.mp (le_max_right _ _)))

/-- With operands of unequal length nothing cancels at the top. -/
theorem blen_xor_of_ne {a b : Nat} (h : blen a ≠ blen b) :
    blen (a ^^^ b) = max (blen a) (blen b) := by
  rcases Nat.lt_or_gt_of_ne h with hlt | hgt
  · rw [blen_xor_of_lt hlt, max_eq_right hlt.le]
  · rw [Nat.xor_comm, blen_xor_of_lt hgt, max_eq_left hgt.le]

/-- A right shift drops `n` bits, or all there are. -/
theorem blen_shiftRight (a n : Nat) : blen (a >>> n) = blen a - n := by
  refine eq_of_forall_ge_iff fun m => ?_
  calc blen (a >>> n) ≤ m
      ↔ a / 2 ^ n < 2 ^ m := by rw [blen_le_iff, Nat.shiftRight_eq_div_pow]
    _ ↔ a < 2 ^ (m + n) := by rw [Nat.div_lt_iff_lt_mul (Nat.two_pow_pos n), pow_add]
    _ ↔ blen a - n ≤ m := by rw [← blen_le_iff, Nat.sub_le_iff_le_add]

/-- The bit length is the logarithm of the next number, rounded up; for 0 too. -/
theorem blen_eq_clog (a : Nat) : blen a = Nat.clog 2 (a + 1) := by
  refine eq_of_forall_ge_iff fun m => ?_
  rw [blen_le_iff, Nat.clog_le_iff_le_pow one_lt_two, Nat.add_one_le_iff]

/-- Settles O27: one lemma on `blen` per law. -/
theorem bitLengthLaws : Obligations.BitLengthLaws :=
  fun a b n => ⟨blen_xor_le_max a b, blen_xor_of_ne, fun ha => blen_shiftLeft ha n,
    blen_shiftRight a n, fun _ => blen_eq_clog a⟩

end Sys2Proof.Machine
end

section
/-! SUPPORT. The responses of BV_GETBIT and BV_SHL in the terms of their rules (40_bitvector.md R73, R75), and
the next state of any command from its response. -/

namespace Sys2Proof.Machine

variable {a b : Data}

/-- The next state of a command, field by field, from its response (R22). -/
theorem exec_of_responseOf {i : Instr} {data : Data} {err : ErrCode} {red : Bool}
    (h : responseOf i = ⟨data, err, red⟩) (s : State) :
    exec i s = .next { s with rspValid := true, rspData := data, rspErr := err, rspRed := red } := by
  rw [exec_eq, h]
  rfl

theorem responseOf_bvGetbit_of_lt (h : b.toNat < blen a.toNat) :
    responseOf (.bvGetbit a b) = ⟨if a.getLsbD b.toNat then 1 else 0, 0, false⟩ := by
  rw [responseOf_bvGetbit a b 0, datapath_oor, datapath_bit 0 h, decide_eq_true h]
  rfl

theorem responseOf_bvGetbit_of_not_lt (h : ¬ b.toNat < blen a.toNat) :
    responseOf (.bvGetbit a b) = ⟨0, 2, false⟩ := by
  rw [responseOf_bvGetbit a b 0, datapath_oor, decide_eq_false h]
  rfl

/-- The bit length of the shifted value, which R31 tests, is within the width when A is 0 or R75's sum is. -/
theorem blen_shiftLeft_le (h : a = 0 ∨ blen a.toNat + b.toNat ≤ 16) :
    blen (a.toNat <<< b.toNat) ≤ 16 := by
  by_cases h0 : a = 0
  · simp [h0]
  · rw [blen_shiftLeft (BitVec.toNat_ne_iff_ne.mpr h0)]
    exact h.resolve_left h0

theorem responseOf_bvShl_of_fits (h : blen (a.toNat <<< b.toNat) ≤ 16) :
    responseOf (.bvShl a b) = ⟨zext16 (a.toNat <<< b.toNat), 0, false⟩ := by
  rw [responseOf_bvShl, datapath_shl_ovf, datapath_shl_y h, decide_eq_false (not_lt.mpr h)]
  rfl

theorem responseOf_bvShl_of_overflow (h : 16 < blen (a.toNat <<< b.toNat)) :
    responseOf (.bvShl a b) = ⟨0, 4, false⟩ := by
  rw [responseOf_bvShl, datapath_shl_ovf, decide_eq_true h]
  rfl

end Sys2Proof.Machine
end

section
/-! SUPPORT. The BitVector commands one by one (40_bitvector.md R71 to R77): the response of each is the
whole of its effect. -/

namespace Sys2Proof.Machine

/-- Settles O14: the operand stands on the bus as it is. -/
theorem bvPassReturnsItsOperand : Obligations.BvPassReturnsItsOperand :=
  fun a b s => exec_of_responseOf (responseOf_bvPass a b) s

/-- Settles O15: the width is the bit length, the least one by `blen_le_iff`. -/
theorem bvLenReturnsTheLeastWidth : Obligations.BvLenReturnsTheLeastWidth :=
  fun a _ s => ⟨blen a.toNat, blen_operand_le a, lt_two_pow_blen _, fun _ => blen_le_iff.mpr, rfl,
    exec_of_responseOf rfl s⟩

/-- Settles O16: below the bit length and not below it the response is known. -/
theorem bvGetbitReturnsTheBitBelowTheBitLength :
    Obligations.BvGetbitReturnsTheBitBelowTheBitLength :=
  fun _ _ s => ⟨fun h => exec_of_responseOf (responseOf_bvGetbit_of_lt h) s,
    fun h => exec_of_responseOf (responseOf_bvGetbit_of_not_lt h) s⟩

/-- Settles O17: the XOR of two operands fits the bus. -/
theorem bvXorReturnsTheBitwiseXor : Obligations.BvXorReturnsTheBitwiseXor :=
  fun a b s => exec_of_responseOf (responseOf_bvXor a b) s

/-- Settles O18: a shifted value of at most 16 bits stands on the bus uncut, and R75's sum is its bit
length. -/
theorem bvShlReturnsTheExactShiftOrOverflows : Obligations.BvShlReturnsTheExactShiftOrOverflows := by
  refine fun a b s => ⟨fun h => ?fits, fun h0 h => ?overflow⟩
  case fits =>
    have hfit : blen (a.toNat <<< b.toNat) ≤ 16 := blen_shiftLeft_le h
    refine ⟨_, ?_, exec_of_responseOf (responseOf_bvShl_of_fits hfit) s⟩
    rw [zext16_toNat (blen_le_iff.mp hfit), Nat.shiftLeft_eq]
  case overflow =>
    rw [← blen_shiftLeft (BitVec.toNat_ne_iff_ne.mpr h0)] at h
    exact exec_of_responseOf (responseOf_bvShl_of_overflow h) s

/-- Settles O19: the shift right is the quotient. -/
theorem bvShrReturnsTheFloorOfTheQuotient : Obligations.BvShrReturnsTheFloorOfTheQuotient := by
  refine fun a b s => ⟨a >>> b.toNat, ?_, exec_of_responseOf (responseOf_bvShr a b) s⟩
  rw [BitVec.toNat_ushiftRight, Nat.shiftRight_eq_div_pow]

/-- Settles O26: commands with the same response do the same, and the responses are those of the laws of
XOR on words. -/
theorem xorCommandLaws : Obligations.XorCommandLaws := by
  refine fun a b c s => ⟨exec_congr ?comm s, exec_congr ?assoc s, exec_congr ?identity s,
    exec_congr ?cancel s, exec_congr ?undo s, exec_congr ?feAdd s⟩
  case comm => rw [responseOf_bvXor, responseOf_bvXor, BitVec.xor_comm]
  case assoc => rw [responseOf_bvXor, responseOf_bvXor, BitVec.xor_assoc]
  case identity => simp [responseOf_bvXor, responseOf_bvPass]
  case cancel => simp [responseOf_bvXor, responseOf_bvPass]
  case undo =>
    rw [responseOf_bvXor, responseOf_bvPass, BitVec.xor_assoc, BitVec.xor_self, BitVec.xor_zero]
  case feAdd => rfl

end Sys2Proof.Machine
end

section
/-! SUPPORT. The carry-less product is linear over XOR in each operand (41_field_element.md R92, R95). So a
law of it that both sides keep under XOR is proved once it holds for powers of 2. -/

namespace Sys2Proof.Machine

theorem blen_two_pow_le (k : Nat) : blen (2 ^ k) ≤ k + 1 :=
  blen_le_iff.mpr (Nat.pow_lt_pow_right one_lt_two k.lt_succ_self)

/-- Every number is an XOR of powers of 2: a predicate that XOR keeps holds of all numbers once it holds of
0 and of each power. -/
theorem xor_two_pow_induction {P : Nat → Prop} (zero : P 0) (two_pow : ∀ k, P (2 ^ k))
    (xor : ∀ a b, P a → P b → P (a ^^^ b)) (v : Nat) : P v := by
  suffices hall : ∀ m v, blen v ≤ m → P v from hall (blen v) v le_rfl
  intro m
  induction m with
  | zero => exact fun v hv => blen_eq_zero_iff.mp (Nat.le_zero.mp hv) ▸ zero
  | succ m ih =>
    intro v hv
    cases hbit : v.testBit m
    case false => exact ih v (blen_le_of_testBit_false hv hbit)
    case true =>
      have hrest : P (v ^^^ 2 ^ m) :=
        ih _ (blen_xor_le_of_testBit hv (blen_two_pow_le m) hbit Nat.testBit_two_pow_self)
      rw [← Nat.xor_xor_cancel_right v (2 ^ m)]
      exact xor _ _ hrest (two_pow m)

/-- Two sums of two regroup. -/
theorem xor_xor_xor_comm (a b c d : Nat) : a ^^^ b ^^^ (c ^^^ d) = a ^^^ c ^^^ (b ^^^ d) := by
  ac_rfl

/-- The loop body of R92 as one sum: bit `n` of `b` adds the shifted copy or nothing. -/
theorem clmulBelow_succ_eq_xor (a b n : Nat) :
    clmulBelow a b (n + 1) = clmulBelow a b n ^^^ if b.testBit n then a <<< n else 0 := by
  rw [clmulBelow_succ]
  split
  · rfl
  · rw [Nat.xor_zero]

theorem clmulBelow_zero_left (b n : Nat) : clmulBelow 0 b n = 0 := by
  induction n with
  | zero => rfl
  | succ n ih => simp [clmulBelow_succ, ih]

theorem clmulBelow_xor_left (a b c n : Nat) :
    clmulBelow (a ^^^ b) c n = clmulBelow a c n ^^^ clmulBelow b c n := by
  induction n with
  | zero => simp
  | succ n ih =>
    rw [clmulBelow_succ, clmulBelow_succ, clmulBelow_succ, ih]
    split
    · rw [Nat.shiftLeft_xor_distrib, xor_xor_xor_comm]
    · rfl

theorem clmulBelow_xor_right (a b c n : Nat) :
    clmulBelow a (b ^^^ c) n = clmulBelow a b n ^^^ clmulBelow a c n := by
  induction n with
  | zero => simp
  | succ n ih =>
    have hcopy : (if (b ^^^ c).testBit n then a <<< n else 0) =
        (if b.testBit n then a <<< n else 0) ^^^ if c.testBit n then a <<< n else 0 := by
      rw [Nat.testBit_xor]
      cases b.testBit n <;> cases c.testBit n <;> simp
    simp only [clmulBelow_succ_eq_xor]
    rw [ih, hcopy, xor_xor_xor_comm]

theorem clmulBelow_shiftLeft_left (a b m n : Nat) :
    clmulBelow (a <<< m) b n = clmulBelow a b n <<< m := by
  induction n with
  | zero => simp
  | succ n ih =>
    rw [clmulBelow_succ, clmulBelow_succ, ih]
    split
    · rw [Nat.shiftLeft_xor_distrib, ← Nat.shiftLeft_add, ← Nat.shiftLeft_add, Nat.add_comm m]
    · rfl

@[simp] theorem clmul_zero_right (a : Nat) : clmul a 0 = 0 := rfl

@[simp] theorem clmul_zero_left (b : Nat) : clmul 0 b = 0 := clmulBelow_zero_left b _

theorem clmul_xor_left (a b c : Nat) : clmul (a ^^^ b) c = clmul a c ^^^ clmul b c :=
  clmulBelow_xor_left a b c _

/-- The three products are taken over as many bits as the longest right operand has. -/
theorem clmul_xor_right (a b c : Nat) : clmul a (b ^^^ c) = clmul a b ^^^ clmul a c := by
  have h := clmulBelow_xor_right a b c (max (blen b) (blen c))
  rwa [clmulBelow_of_blen_le (le_max_left _ _), clmulBelow_of_blen_le (le_max_right _ _),
    clmulBelow_of_blen_le (blen_xor_le_max b c)] at h

theorem clmul_shiftLeft_left (a b m : Nat) : clmul (a <<< m) b = clmul a b <<< m :=
  clmulBelow_shiftLeft_left a b m _

/-- The only set bit of a power of 2 adds the only shifted copy. -/
theorem clmul_two_pow_right (a k : Nat) : clmul a (2 ^ k) = a <<< k := by
  have hlow : clmulBelow a (2 ^ k) k = 0 := by
    calc clmulBelow a (2 ^ k) k
        = clmulBelow a 0 k := clmulBelow_congr fun i hi => by
          rw [Nat.testBit_two_pow_of_ne hi.ne', Nat.zero_testBit]
      _ = clmul a 0 := clmulBelow_of_blen_le (Nat.zero_le k)
  rw [← clmulBelow_of_blen_le (blen_two_pow_le k), clmulBelow_succ,
    if_pos Nat.testBit_two_pow_self, hlow, Nat.zero_xor]

theorem clmul_two_pow_left (b k : Nat) : clmul (2 ^ k) b = b <<< k := by
  induction b using xor_two_pow_induction with
  | zero => simp
  | two_pow j => rw [clmul_two_pow_right, Nat.shiftLeft_eq, Nat.shiftLeft_eq, Nat.mul_comm]
  | xor b c hb hc => rw [clmul_xor_right, hb, hc, Nat.shiftLeft_xor_distrib]

theorem clmul_comm (a b : Nat) : clmul a b = clmul b a := by
  induction a using xor_two_pow_induction with
  | zero => rw [clmul_zero_left, clmul_zero_right]
  | two_pow k => rw [clmul_two_pow_left, clmul_two_pow_right]
  | xor a c ha hc => rw [clmul_xor_left, clmul_xor_right, ha, hc]

theorem clmul_shiftLeft_right (a b m : Nat) : clmul a (b <<< m) = clmul a b <<< m := by
  rw [clmul_comm, clmul_shiftLeft_left, clmul_comm]

theorem clmul_assoc (a b c : Nat) : clmul (clmul a b) c = clmul a (clmul b c) := by
  induction c using xor_two_pow_induction with
  | zero => simp
  | two_pow k => rw [clmul_two_pow_right, clmul_two_pow_right, clmul_shiftLeft_right]
  | xor c d hc hd => rw [clmul_xor_right, clmul_xor_right, clmul_xor_right, hc, hd]

@[simp] theorem clmul_one_right (a : Nat) : clmul a 1 = a := clmul_two_pow_right a 0

/-- Settles O30: the laws above; the product of the example is evaluated. -/
theorem carrylessProductLaws : Obligations.CarrylessProductLaws :=
  ⟨fun a b c => ⟨clmul_comm a b, clmul_xor_right a b c, clmul_assoc a b c, clmul_one_right a,
    clmul_zero_right a⟩, by decide⟩

end Sys2Proof.Machine
end

section
/-! SUPPORT. The bit length of the carry-less product and its bits (41_field_element.md R92, R93). -/

namespace Sys2Proof.Machine

/-- The copy shifted for the top bit of `b` is longer than what the bits below it add (R93). -/
theorem blen_clmul {a b : Nat} (ha : a ≠ 0) (hb : b ≠ 0) : blen (clmul a b) = blen a + blen b - 1 := by
  obtain ⟨m, hm⟩ := Nat.exists_eq_succ_of_ne_zero (mt blen_eq_zero_iff.mp hb)
  have htop : b.testBit m = true := by
    have h := testBit_blen_sub_one hb
    rwa [hm] at h
  rw [clmul, hm, clmulBelow_succ, if_pos htop, blen_xor_of_lt (blen_clmulBelow_lt ha b m),
    blen_shiftLeft ha]
  rfl

/-- Settles O29: nothing meets the top bit of the highest copy, and with a zero operand every copy is 0 or
there is none. -/
theorem carrylessProductBitLength : Obligations.CarrylessProductBitLength := by
  refine fun a b => ⟨blen_clmul, ?_⟩
  rintro (rfl | rfl)
  · exact clmul_zero_left b
  · exact clmul_zero_right a

/-- The terms of the convolution at bit `k` that take a bit of `a` below `n`. -/
def convolutionBelow (a b k n : Nat) : Bool :=
  ((List.range n).map fun i => a.testBit i && b.testBit (k - i)).foldl Bool.xor false

theorem convolutionBelow_self (a b k : Nat) : convolutionBelow a b k (k + 1) = convolutionBit a b k := rfl

theorem convolutionBelow_succ (a b k n : Nat) : convolutionBelow a b k (n + 1) =
    (convolutionBelow a b k n ^^ (a.testBit n && b.testBit (k - n))) := by
  simp [convolutionBelow, List.range_succ]

/-- A copy shifted by at most `k` puts the bit `k - i` of what it copies at bit `k`. -/
theorem testBit_clmulBelow (a b : Nat) {k n : Nat} (h : n ≤ k + 1) :
    (clmulBelow b a n).testBit k = convolutionBelow a b k n := by
  induction n with
  | zero => exact Nat.zero_testBit k
  | succ n ih =>
    have hn : n ≤ k := Nat.le_of_succ_le_succ h
    rw [clmulBelow_succ_eq_xor, Nat.testBit_xor, ih (hn.trans k.le_succ), convolutionBelow_succ]
    cases a.testBit n <;> simp [hn]

/-- Copies shifted by more than `k` leave bit `k` alone. -/
theorem testBit_clmulBelow_of_lt (a b : Nat) {k n : Nat} (h : k + 1 ≤ n) :
    (clmulBelow a b n).testBit k = (clmulBelow a b (k + 1)).testBit k := by
  induction n, h using Nat.le_induction with
  | base => rfl
  | succ n hn ih =>
    rw [clmulBelow_succ_eq_xor, Nat.testBit_xor, ih]
    split <;> simp [Nat.not_le.mpr hn]

/-- Settles O28: the convolution runs over the bits of the left operand and R92 over those of the right, so
the operands change places. -/
theorem carrylessProductIsTheConvolution : Obligations.CarrylessProductIsTheConvolution := by
  intro a b k
  rw [clmul_comm, ← clmulBelow_of_blen_le (le_max_left (blen a) (k + 1)),
    testBit_clmulBelow_of_lt _ _ (le_max_right _ _), testBit_clmulBelow a b le_rfl,
    convolutionBelow_self]

end Sys2Proof.Machine
end

section
/-! SUPPORT. The FieldElement commands one by one (41_field_element.md R91, R94). -/

namespace Sys2Proof.Machine

variable {a b : Data}

/-- Settles O20: FE_ADD answers what BV_XOR does (R91). -/
theorem feAddReturnsTheFieldSum : Obligations.FeAddReturnsTheFieldSum :=
  fun a b s => exec_of_responseOf (i := .feAdd a b) (responseOf_bvXor a b) s

theorem responseOf_feMul_of_fits (h : blen (clmul a.toNat b.toNat) ≤ 16) :
    responseOf (.feMul a b) = ⟨zext16 (clmul a.toNat b.toNat), 0, false⟩ :=
  if_neg (Nat.not_lt.mpr h)

theorem responseOf_feMul_of_overflow (h : 16 < blen (clmul a.toNat b.toNat)) :
    responseOf (.feMul a b) = ⟨0, 4, false⟩ := if_pos h

/-- The product fits the width when an operand is 0 or R93's bit length is within the width. -/
theorem blen_clmul_le (h : a = 0 ∨ b = 0 ∨ blen a.toNat + blen b.toNat - 1 ≤ 16) :
    blen (clmul a.toNat b.toNat) ≤ 16 := by
  by_cases ha : a = 0
  · simp [ha]
  by_cases hb : b = 0
  · simp [hb]
  rw [blen_clmul (BitVec.toNat_ne_iff_ne.mpr ha) (BitVec.toNat_ne_iff_ne.mpr hb)]
  exact (h.resolve_left ha).resolve_left hb

/-- Settles O21: a product of at most 16 bits stands on the bus uncut, and R93 gives its bit length. -/
theorem feMulReturnsTheExactProductOrOverflows :
    Obligations.FeMulReturnsTheExactProductOrOverflows := by
  refine fun a b s => ⟨fun h => ?fits, fun ha hb h => ?overflow⟩
  case fits =>
    have hfit : blen (clmul a.toNat b.toNat) ≤ 16 := blen_clmul_le h
    exact ⟨_, zext16_toNat (blen_le_iff.mp hfit), exec_of_responseOf (responseOf_feMul_of_fits hfit) s⟩
  case overflow =>
    rw [← blen_clmul (BitVec.toNat_ne_iff_ne.mpr ha) (BitVec.toNat_ne_iff_ne.mpr hb)] at h
    exact ⟨h, exec_of_responseOf (responseOf_feMul_of_overflow h) s⟩

theorem responseOf_feMul_comm (a b : Data) : responseOf (.feMul a b) = responseOf (.feMul b a) := by
  rw [responseOf, responseOf, clmul_comm]

/-- The product by 2^k is the value shifted by k, so the two commands overflow together (R94 (c)). -/
theorem responseOf_feMul_two_pow (a : Data) {k : Nat} (hk : k < 16) :
    responseOf (.feMul a (BitVec.ofNat 16 (2 ^ k))) = responseOf (.bvShl a (BitVec.ofNat 16 k)) := by
  have hpow : (BitVec.ofNat 16 (2 ^ k)).toNat = 2 ^ k :=
    zext16_toNat (Nat.pow_lt_pow_right one_lt_two hk)
  have hamount : (BitVec.ofNat 16 k).toNat = k := zext16_toNat (hk.trans (by decide))
  have hprod : clmul a.toNat (BitVec.ofNat 16 (2 ^ k)).toNat =
      a.toNat <<< (BitVec.ofNat 16 k).toNat := by
    rw [hpow, hamount, clmul_two_pow_right]
  rcases Nat.lt_or_ge 16 (blen (a.toNat <<< (BitVec.ofNat 16 k).toNat)) with hover | hfit
  · rw [responseOf_bvShl_of_overflow hover, responseOf_feMul_of_overflow (hprod ▸ hover)]
  · rw [responseOf_bvShl_of_fits hfit, responseOf_feMul_of_fits (hprod ▸ hfit), hprod]

/-- Settles O31: in each clause the two responses are the same. -/
theorem feMulByAPowerOfTwoIsBvShl : Obligations.FeMulByAPowerOfTwoIsBvShl :=
  ⟨fun a _ s hk => exec_congr (responseOf_feMul_two_pow a hk) s,
    fun a b s => exec_congr (responseOf_feMul_comm a b) s⟩

end Sys2Proof.Machine
end

section
/-! SUPPORT. Congruence modulo a polynomial over GF(2), and the one remainder (42_field8.md R101): every step
of long division keeps the class, and a class has at most one member shorter than the divisor. -/

namespace Sys2Proof.Machine

variable {d v w r r' : Nat}

/-- `v` and `w` differ by a multiple of `d`, as polynomials over GF(2) (R101). -/
def PolyCongr (d v w : Nat) : Prop := ∃ q, v = clmul q d ^^^ w

theorem isRemainder_iff : IsRemainder v r ↔ blen r ≤ 8 ∧ PolyCongr Config.reductionPoly v r := Iff.rfl

namespace PolyCongr

theorem refl (d v : Nat) : PolyCongr d v v := ⟨0, by simp⟩

theorem trans {x : Nat} (hvw : PolyCongr d v w) (hwx : PolyCongr d w x) : PolyCongr d v x := by
  obtain ⟨p, rfl⟩ := hvw
  obtain ⟨q, rfl⟩ := hwx
  exact ⟨p ^^^ q, by rw [clmul_xor_left, Nat.xor_assoc]⟩

/-- One step of long division. -/
theorem xor_shiftLeft (d v n : Nat) : PolyCongr d v (v ^^^ d <<< n) :=
  ⟨2 ^ n, by rw [clmul_two_pow_left, Nat.xor_comm v, Nat.xor_xor_cancel_left]⟩

theorem xor {v' w' : Nat} (h : PolyCongr d v w) (h' : PolyCongr d v' w') :
    PolyCongr d (v ^^^ v') (w ^^^ w') := by
  obtain ⟨p, rfl⟩ := h
  obtain ⟨q, rfl⟩ := h'
  exact ⟨p ^^^ q, by rw [clmul_xor_left, xor_xor_xor_comm]⟩

theorem clmul_right (h : PolyCongr d v w) (c : Nat) : PolyCongr d (clmul v c) (clmul w c) := by
  obtain ⟨q, rfl⟩ := h
  refine ⟨clmul q c, ?_⟩
  rw [clmul_xor_left, clmul_assoc, clmul_comm d c, ← clmul_assoc]

/-- Two short members of a class differ by a multiple of `d` shorter than `d`, and only 0 is one (R93). -/
theorem eq_of_blen_lt (h : PolyCongr d v r) (h' : PolyCongr d v r') (hr : blen r < blen d)
    (hr' : blen r' < blen d) : r = r' := by
  obtain ⟨q, hq⟩ := h.xor h'
  have hmultiple : clmul q d = r ^^^ r' := by rwa [Nat.xor_self, eq_comm, Nat.xor_eq_zero_iff] at hq
  have hshort : blen (clmul q d) < blen d :=
    hmultiple ▸ (blen_xor_le_max r r').trans_lt (max_lt hr hr')
  have hd : d ≠ 0 := fun h0 => by simp [h0] at hr
  by_cases h0 : q = 0
  · rwa [h0, clmul_zero_left, eq_comm, Nat.xor_eq_zero_iff] at hmultiple
  · have hpos := mt blen_eq_zero_iff.mp h0
    rw [blen_clmul h0 hd] at hshort
    omega

end PolyCongr

theorem reduceStep_congr (tested n : Nat) (st : Nat × Bool) : PolyCongr Config.reductionPoly st.1
    (reduceStep tested (Config.fieldBits + n) st).1 := by
  cases hbit : tested.testBit (Config.fieldBits + n)
  case false =>
    rw [reduceStep_of_clear hbit]
    exact .refl _ _
  case true =>
    rw [reduceStep_of_set hbit, Nat.add_sub_cancel_left]
    exact .xor_shiftLeft _ _ _

theorem reducePass_congr (n : Nat) (st : Nat × Bool) :
    PolyCongr Config.reductionPoly st.1 (reducePass n st).1 := by
  induction n generalizing st with
  | zero => exact .refl _ _
  | succ n ih => exact (reduceStep_congr _ n st).trans (ih _)

theorem polymod_congr (v : Nat) : PolyCongr Config.reductionPoly v (polymod v) := by
  rw [polymod, ← reducePass_eq_reduce (n := blen v) (Nat.le_add_left _ _)]
  exact reducePass_congr _ (v, false)

theorem blen_polymod_le (v : Nat) : blen (polymod v) ≤ 8 := blen_le_iff.mpr (polymod_lt v)

theorem isRemainder_polymod (v : Nat) : IsRemainder v (polymod v) :=
  isRemainder_iff.mpr ⟨blen_polymod_le v, polymod_congr v⟩

theorem isRemainder_iff_eq_polymod : IsRemainder v r ↔ r = polymod v := by
  constructor
  · intro h
    obtain ⟨hr, hcongr⟩ := isRemainder_iff.mp h
    exact hcongr.eq_of_blen_lt (polymod_congr v) (Nat.lt_succ_of_le hr)
      (Nat.lt_succ_of_le (blen_polymod_le v))
  · rintro rfl
    exact isRemainder_polymod v

/-- The members of a class have the same remainder. -/
theorem polymod_eq_of_congr (h : PolyCongr Config.reductionPoly v w) : polymod v = polymod w :=
  (isRemainder_iff_eq_polymod.mp
    (isRemainder_iff.mpr ⟨blen_polymod_le w, h.trans (polymod_congr w)⟩)).symm

theorem polymod_of_lt (h : v < 256) : polymod v = v :=
  (isRemainder_iff_eq_polymod.mp (isRemainder_iff.mpr ⟨blen_le_iff.mpr h, .refl _ v⟩)).symm

theorem polymod_xor (v w : Nat) : polymod (v ^^^ w) = polymod v ^^^ polymod w := by
  rw [polymod_eq_of_congr ((polymod_congr v).xor (polymod_congr w))]
  exact polymod_of_lt (Nat.xor_lt_two_pow (n := 8) (polymod_lt v) (polymod_lt w))

/-- Reducing a factor first leaves the remainder of the product as it is. -/
theorem polymod_clmul_polymod_left (v c : Nat) :
    polymod (clmul (polymod v) c) = polymod (clmul v c) :=
  (polymod_eq_of_congr ((polymod_congr v).clmul_right c)).symm

/-- Settles O32: the remainder of R101 is unique and `polymod` is one. -/
theorem polymodIsTheUniqueRemainder : Obligations.PolymodIsTheUniqueRemainder :=
  fun _ => ⟨fun _ => isRemainder_iff_eq_polymod, polymod_of_lt⟩

/-- Settles O34: a reduced value is below 256, so from 256 on it differs from the value. -/
theorem reductionFlagIsTheSizeTest : Obligations.ReductionFlagIsTheSizeTest := by
  intro v
  have hchanged : 256 ≤ v ↔ polymod v ≠ v := by
    constructor
    · exact fun h => ((polymod_lt v).trans_le h).ne
    · exact fun h => not_lt.mp (mt polymod_of_lt h)
  refine ⟨reduce_snd v, ?_⟩
  rw [reduce_snd, decide_eq_true_iff, hchanged]

end Sys2Proof.Machine
end

section
/-! SUPPORT. The snapshot reading of the scan (42_field8.md R103, U2): a pass keeps the class and shortens the
value, so the loop ends at the one remainder. -/

namespace Sys2Proof.Machine

variable {v : Nat}

theorem snapshotPass_succ (snap n : Nat) (st : Nat × Bool) : snapshotPass snap (n + 1) st =
    snapshotPass snap n (reduceStep snap (Config.fieldBits + n) st) := rfl

theorem snapshotPass_congr (snap n : Nat) (st : Nat × Bool) :
    PolyCongr Config.reductionPoly st.1 (snapshotPass snap n st).1 := by
  induction n generalizing st with
  | zero => exact .refl _ _
  | succ n ih => exact (reduceStep_congr snap n st).trans (ih _)

/-- A step adds nothing above its own position. -/
theorem blen_reduceStep_le_of_lt {n k : Nat} {st : Nat × Bool} (tested : Nat) (h : blen st.1 ≤ k)
    (hn : Config.fieldBits + n < k) :
    blen (reduceStep tested (Config.fieldBits + n) st).1 ≤ k := by
  cases hbit : tested.testBit (Config.fieldBits + n)
  case false => rwa [reduceStep_of_clear hbit]
  case true =>
    rw [reduceStep_of_set hbit, Nat.add_sub_cancel_left]
    exact (blen_xor_le_max _ _).trans (max_le h ((blen_reductionPoly_shift n).trans_le hn))

theorem blen_snapshotPass_le {n k : Nat} {st : Nat × Bool} (snap : Nat) (h : blen st.1 ≤ k)
    (hn : Config.fieldBits + n ≤ k) : blen (snapshotPass snap n st).1 ≤ k := by
  induction n generalizing st with
  | zero => exact h
  | succ n ih => exact ih (blen_reduceStep_le_of_lt snap h hn) (Nat.le_of_lt hn)

/-- The flag once raised stays (R102). -/
theorem snapshotPass_snd_of_raised (snap n w : Nat) : (snapshotPass snap n (w, true)).2 = true := by
  induction n generalizing w with
  | zero => rfl
  | succ n ih =>
    rw [snapshotPass_succ]
    cases hbit : snap.testBit (Config.fieldBits + n)
    case false => rw [reduceStep_of_clear hbit, ih]
    case true => rw [reduceStep_of_set hbit, ih]

/-- The first step of a pass clears the top bit and raises the flag, and no later step comes as high. -/
theorem snapshotPass_shortens (hv : Config.fieldBits < blen v) (red : Bool) :
    blen (snapshotPass v (blen v - Config.fieldBits) (v, red)).1 < blen v ∧
    (snapshotPass v (blen v - Config.fieldBits) (v, red)).2 = true := by
  obtain ⟨n, hn⟩ := Nat.exists_eq_add_of_lt hv
  have htop : v.testBit (Config.fieldBits + n) = true := by
    have h := testBit_blen_sub_one (v := v) (fun h0 => by simp [h0] at hv)
    rwa [hn, Nat.add_sub_cancel] at h
  have hfirst := blen_reduceStep_le (v := v) (n := n) hn.le red
  rw [show blen v - Config.fieldBits = n + 1 by omega, snapshotPass_succ]
  constructor
  · exact (blen_snapshotPass_le v hfirst le_rfl).trans_lt (by omega)
  · rw [reduceStep_of_set htop]
    exact snapshotPass_snd_of_raised v n _

theorem snapshotLoop_of_fieldValid (h : blen v ≤ Config.fieldBits) (fuel : Nat) (red : Bool) :
    snapshotLoop fuel (v, red) = (v, red) := by
  cases fuel with
  | zero => rfl
  | succ n => exact if_neg (Nat.not_lt.mpr h)

theorem snapshotLoop_succ (h : Config.fieldBits < blen v) (fuel : Nat) (red : Bool) :
    snapshotLoop (fuel + 1) (v, red) =
      snapshotLoop fuel (snapshotPass v (blen v - Config.fieldBits) (v, red)) := if_pos h

/-- Passes as many as bits are enough, since each takes at least one bit. -/
theorem snapshotLoop_eq {fuel : Nat} (hfuel : blen v ≤ fuel) (red : Bool) :
    snapshotLoop fuel (v, red) = (polymod v, red || decide (256 ≤ v)) := by
  induction fuel generalizing v red with
  | zero =>
    obtain rfl : v = 0 := blen_eq_zero_iff.mp (Nat.le_zero.mp hfuel)
    simp [snapshotLoop, polymod_of_lt]
  | succ fuel ih =>
    by_cases hv : blen v ≤ Config.fieldBits
    · have hlt : v < 256 := blen_le_iff.mp hv
      rw [snapshotLoop_of_fieldValid hv, polymod_of_lt hlt, decide_eq_false (not_le.mpr hlt),
        Bool.or_false]
    · have hge : 256 ≤ v := lt_blen_iff.mp (not_le.mp hv)
      obtain ⟨hshort, hflag⟩ := snapshotPass_shortens (not_le.mp hv) red
      have hclass := polymod_eq_of_congr (snapshotPass_congr v (blen v - Config.fieldBits) (v, red))
      rw [snapshotLoop_succ (not_le.mp hv), ← Prod.mk.eta (p := snapshotPass _ _ _), hflag,
        ih (by omega), ← hclass, Bool.true_or, decide_eq_true hge, Bool.or_true]

theorem reduceSnapshot_eq_reduce (v : Nat) : reduceSnapshot v = reduce v := by
  rw [reduceSnapshot, snapshotLoop_eq le_rfl, Bool.false_or, ← reduce_snd]
  rfl

/-- Settles O33: one pass clears every position above the field, and both readings end at the one
remainder. -/
theorem oneReductionPassSuffices : Obligations.OneReductionPassSuffices :=
  fun v _ => ⟨reducePass_eq_reduce (by rw [Config.fieldBits]; omega), reduceSnapshot_eq_reduce v⟩

end Sys2Proof.Machine
end

section
/-! SUPPORT. The product of field elements (42_field8.md R108): the laws of the carry-less product, read
modulo REDUCTION_POLY. They hold of all numbers; only the identity needs a field element. -/

namespace Sys2Proof.Machine

theorem fieldMul_lt (a b : Nat) : fieldMul a b < 256 := polymod_lt _

theorem fieldMul_comm (a b : Nat) : fieldMul a b = fieldMul b a := by
  rw [fieldMul, clmul_comm, fieldMul]

theorem fieldMul_polymod_left (a b : Nat) : fieldMul (polymod a) b = fieldMul a b :=
  polymod_clmul_polymod_left a b

theorem fieldMul_assoc (a b c : Nat) : fieldMul (fieldMul a b) c = fieldMul a (fieldMul b c) := by
  calc fieldMul (fieldMul a b) c
      = polymod (clmul (clmul a b) c) := fieldMul_polymod_left _ c
    _ = polymod (clmul (clmul b c) a) := by rw [clmul_assoc, clmul_comm]
    _ = fieldMul (fieldMul b c) a := (fieldMul_polymod_left _ a).symm
    _ = fieldMul a (fieldMul b c) := fieldMul_comm _ a

theorem fieldMul_xor_right (a b c : Nat) :
    fieldMul a (b ^^^ c) = fieldMul a b ^^^ fieldMul a c := by
  rw [fieldMul, clmul_xor_right, polymod_xor, fieldMul, fieldMul]

theorem fieldMul_one_right {a : Nat} (h : a < 256) : fieldMul a 1 = a := by
  rw [fieldMul, clmul_one_right, polymod_of_lt h]

theorem fieldMul_zero_right (a : Nat) : fieldMul a 0 = 0 := by
  rw [fieldMul, clmul_zero_right, polymod_of_lt (by decide)]

/-- Two inverses of one element are the same. -/
theorem eq_of_fieldMul_eq_one {a b c : Nat} (hb : b < 256) (hc : c < 256)
    (hab : fieldMul a b = 1) (hac : fieldMul a c = 1) : c = b := by
  calc c = fieldMul c 1 := (fieldMul_one_right hc).symm
    _ = fieldMul (fieldMul c a) b := by rw [← hab, fieldMul_assoc]
    _ = fieldMul b 1 := by rw [fieldMul_comm c, hac, fieldMul_comm]
    _ = b := fieldMul_one_right hb

end Sys2Proof.Machine
end

section
/-! SUPPORT. Every nonzero field element has an inverse (95_test_vectors.md PR-10). Long division of
REDUCTION_POLY by an element other than 1 leaves a smaller element, which is not 0 since REDUCTION_POLY is
irreducible; from an inverse of the smaller element one of the element itself is made. -/

namespace Sys2Proof.Machine

variable {a d n : Nat}

/-- Long division of `v` by `d` over GF(2), for at most `n` steps: each takes off the top bit. -/
def polyRem (d : Nat) : Nat → Nat → Nat
  | 0, v => v
  | n + 1, v => if blen d ≤ blen v then polyRem d n (v ^^^ d <<< (blen v - blen d)) else v

theorem polyRem_congr (d n v : Nat) : PolyCongr d v (polyRem d n v) := by
  induction n generalizing v with
  | zero => exact .refl d v
  | succ n ih =>
    rw [polyRem]
    split
    · exact (PolyCongr.xor_shiftLeft d v _).trans (ih _)
    · exact .refl d v

/-- The divisor aligned with the top bit takes it off. -/
theorem blen_xor_aligned_lt {v : Nat} (hd : d ≠ 0) (h : blen d ≤ blen v) :
    blen (v ^^^ d <<< (blen v - blen d)) < blen v := by
  have halign : blen (d <<< (blen v - blen d)) = blen v := by
    rw [blen_shiftLeft hd, Nat.add_sub_of_le h]
  have hpos : blen d ≠ 0 := mt blen_eq_zero_iff.mp hd
  have hv : v ≠ 0 := fun h0 => by simp [h0] at h; omega
  have hcopy : d <<< (blen v - blen d) ≠ 0 := by simpa using hd
  have htop := testBit_blen_sub_one hcopy
  rw [halign] at htop
  exact (blen_xor_le_of_testBit (k := blen v - 1) (by omega) (by omega) (testBit_blen_sub_one hv)
    htop).trans_lt (by omega)

theorem blen_polyRem_lt {v : Nat} (hd : d ≠ 0) (hv : blen v ≤ n) : blen (polyRem d n v) < blen d := by
  induction n generalizing v with
  | zero =>
    have hpos : blen d ≠ 0 := mt blen_eq_zero_iff.mp hd
    rw [polyRem]
    omega
  | succ n ih =>
    rw [polyRem]
    split
    case isTrue h =>
      have hlt := blen_xor_aligned_lt hd h
      exact ih (by omega)
    case isFalse h => exact not_le.mp h

/-- No polynomial of degree 1 to 4 divides REDUCTION_POLY: its remainder by each of the 30 is evaluated. -/
theorem polyRem_reductionPoly_ne_zero_of_lt_32 :
    ∀ d < 32, 2 ≤ d → polyRem d 9 Config.reductionPoly ≠ 0 := by decide

theorem clmul_ne_reductionPoly_of_lt_32 (q : Nat) (h2 : 2 ≤ d) (h32 : d < 32) :
    clmul q d ≠ Config.reductionPoly := by
  intro hprod
  have hd : d ≠ 0 := by omega
  have hmultiple : PolyCongr d Config.reductionPoly 0 := ⟨q, by rw [hprod, Nat.xor_zero]⟩
  exact polyRem_reductionPoly_ne_zero_of_lt_32 d h32 h2
    ((polyRem_congr d 9 _).eq_of_blen_lt hmultiple (blen_polyRem_lt hd (by decide))
      (Nat.pos_of_ne_zero (mt blen_eq_zero_iff.mp hd)))

/-- REDUCTION_POLY is irreducible: of two factors of degree 1 to 7, one has degree at most 4. -/
theorem clmul_ne_reductionPoly (q : Nat) (h2 : 2 ≤ d) (h256 : d < 256) :
    clmul q d ≠ Config.reductionPoly := by
  intro hprod
  have hd : d ≠ 0 := by omega
  have hq : q ≠ 0 := fun h0 => by simp [h0, Config.reductionPoly] at hprod
  have hlen : blen q + blen d - 1 = 9 := by rw [← blen_clmul hq hd, hprod]; rfl
  have hd8 : blen d ≤ 8 := blen_le_iff.mpr h256
  by_cases hd5 : blen d ≤ 5
  · exact clmul_ne_reductionPoly_of_lt_32 q h2 (blen_le_iff.mp hd5) hprod
  · have hq2 : 2 ≤ q := lt_blen_iff (n := 1).mp (by omega)
    have hq32 : q < 32 := blen_le_iff (n := 5).mp (by omega)
    exact clmul_ne_reductionPoly_of_lt_32 d hq2 hq32 (clmul_comm d q ▸ hprod)

/-- Division of REDUCTION_POLY by a field element other than 0 and 1: what it leaves is a multiple of the
element in the field, smaller and not 0. -/
theorem exists_smaller_multiple (h2 : 2 ≤ a) (h256 : a < 256) :
    ∃ q, fieldMul a q ≠ 0 ∧ fieldMul a q < a := by
  have hshort : blen (polyRem a 9 Config.reductionPoly) < blen a :=
    blen_polyRem_lt (by omega) (by decide)
  obtain ⟨q, hdiv⟩ := polyRem_congr a 9 Config.reductionPoly
  generalize polyRem a 9 Config.reductionPoly = r at hshort hdiv
  have hlt : r < a := (lt_two_pow_blen r).trans_le (lt_blen_iff.mp hshort)
  have hcongr : PolyCongr Config.reductionPoly (clmul a q) r :=
    ⟨1, by rw [clmul_comm 1, clmul_one_right, hdiv, clmul_comm a, Nat.xor_xor_cancel_right]⟩
  have hmul : fieldMul a q = r :=
    (polymod_eq_of_congr hcongr).trans (polymod_of_lt (hlt.trans h256))
  refine ⟨q, ?_, hmul ▸ hlt⟩
  rw [hmul]
  rintro rfl
  exact clmul_ne_reductionPoly q h2 h256 (by rw [hdiv, Nat.xor_zero])

theorem exists_fieldMul_eq_one (h0 : a ≠ 0) (h256 : a < 256) : ∃ b < 256, fieldMul a b = 1 := by
  induction a using Nat.strong_induction_on with
  | _ a ih =>
    by_cases h1 : a = 1
    · exact ⟨1, by decide, h1 ▸ fieldMul_one_right h256⟩
    · obtain ⟨q, hne, hlt⟩ := exists_smaller_multiple (by omega) h256
      obtain ⟨b, -, hb⟩ := ih _ hlt hne (hlt.trans h256)
      exact ⟨fieldMul q b, fieldMul_lt q b, by rw [← fieldMul_assoc, hb]⟩

end Sys2Proof.Machine
end

section
/-! SUPPORT. The Field8Element commands one by one (42_field8.md R105 to R108): the response of each in the
terms of its rule. -/

namespace Sys2Proof.Machine

variable {a b : Data}

/-- A reduced value fits the bus. -/
theorem zext16_polymod_toNat (v : Nat) : (zext16 (polymod v)).toNat = polymod v :=
  zext16_toNat ((polymod_lt v).trans (by decide))

theorem responseOf_f8Reduce (a b : Data) : responseOf (.f8Reduce a b) =
    ⟨zext16 (polymod a.toNat), 0, decide (256 ≤ a.toNat)⟩ := by
  rw [responseOf, okResponse, reduce_snd]
  rfl

/-- Settles O22: the data is `polymod`, which is a remainder. -/
theorem f8ReduceReturnsTheRemainder : Obligations.F8ReduceReturnsTheRemainder := by
  intro a b s
  refine ⟨zext16 (polymod a.toNat), ?_, exec_of_responseOf (responseOf_f8Reduce a b) s⟩
  rw [zext16_polymod_toNat]
  exact isRemainder_polymod _

/-- The strict check passes a field element (R106, R107). -/
theorem reduce_operand_snd_of_lt (h : a.toNat < 256) : (reduce (operand a)).2 = false :=
  (reduce_snd _).trans (decide_eq_false (not_le.mpr h))

theorem reduce_operand_snd_of_ge (h : 256 ≤ a.toNat) : (reduce (operand a)).2 = true :=
  (reduce_snd _).trans (decide_eq_true h)

theorem responseOf_f8ReduceStrict_of_lt (h : a.toNat < 256) :
    responseOf (.f8ReduceStrict a b) = ⟨a, 0, false⟩ := by
  have hdata : polymod (operand a) = operand a := polymod_of_lt h
  rw [responseOf, reduce_operand_snd_of_lt h, hdata, okResponse, zext16_operand]
  rfl

theorem responseOf_f8ReduceStrict_of_ge (h : 256 ≤ a.toNat) :
    responseOf (.f8ReduceStrict a b) = ⟨0, 3, false⟩ := by
  rw [responseOf, reduce_operand_snd_of_ge h]
  rfl

/-- Settles O23: the flag of the reduction is the strict check. -/
theorem f8ReduceStrictReturnsAFieldElementOrRefusesIt :
    Obligations.F8ReduceStrictReturnsAFieldElementOrRefusesIt :=
  fun _ _ s => ⟨fun h => exec_of_responseOf (responseOf_f8ReduceStrict_of_lt h) s,
    fun h => exec_of_responseOf (responseOf_f8ReduceStrict_of_ge h) s⟩

theorem responseOf_f8Mul_of_ge (h : 256 ≤ b.toNat) : responseOf (.f8Mul a b) = ⟨0, 3, false⟩ := by
  rw [responseOf, reduce_operand_snd_of_ge h]
  rfl

theorem responseOf_f8Mul_of_lt (h : b.toNat < 256) : responseOf (.f8Mul a b) =
    ⟨zext16 (polymod (clmul (polymod a.toNat) b.toNat)), 0,
      decide (256 ≤ clmul (polymod a.toNat) b.toNat)⟩ := by
  rw [responseOf, reduce_operand_snd_of_lt h, reduce_snd]
  rfl

/-- The product of two field elements has at most 15 bits (R8, R93). -/
theorem blen_clmul_le_15 {v w : Nat} (hv : v < 256) (hw : w < 256) : blen (clmul v w) ≤ 15 := by
  by_cases hv0 : v = 0
  · simp [hv0]
  by_cases hw0 : w = 0
  · simp [hw0]
  have hv8 : blen v ≤ 8 := blen_le_iff.mpr hv
  have hw8 : blen w ≤ 8 := blen_le_iff.mpr hw
  rw [blen_clmul hv0 hw0]
  omega

/-- Settles O24: A is reduced to its remainder and the product to its own. -/
theorem f8MulReturnsTheReducedProduct : Obligations.F8MulReturnsTheReducedProduct := by
  refine fun a b s => ⟨fun h => exec_of_responseOf (responseOf_f8Mul_of_ge h) s, fun h => ?_⟩
  refine ⟨polymod a.toNat, _, zext16 (polymod (clmul (polymod a.toNat) b.toNat)),
    isRemainder_polymod _, rfl, blen_clmul_le_15 (polymod_lt _) h, ?_,
    exec_of_responseOf (responseOf_f8Mul_of_lt h) s⟩
  rw [zext16_polymod_toNat]
  exact isRemainder_polymod _

/-- The response of F8_MUL to two field elements (R108). -/
theorem responseOf_f8Mul (ha : a.toNat < 256) (hb : b.toNat < 256) : responseOf (.f8Mul a b) =
    ⟨zext16 (fieldMul a.toNat b.toNat), 0, decide (256 ≤ clmul a.toNat b.toNat)⟩ := by
  rw [responseOf_f8Mul_of_lt hb, polymod_of_lt ha, fieldMul]

theorem responseOf_f8Mul_comm (ha : a.toNat < 256) (hb : b.toNat < 256) :
    responseOf (.f8Mul a b) = responseOf (.f8Mul b a) := by
  rw [responseOf_f8Mul ha hb, responseOf_f8Mul hb ha, fieldMul_comm, clmul_comm]

/-- Settles O35: the data of F8_MUL is `fieldMul`, whose laws stand above. -/
theorem fieldMultiplicationLaws : Obligations.FieldMultiplicationLaws :=
  fun _ _ _ ha hb _ =>
    ⟨fun s => ⟨exec_congr (responseOf_f8Mul_comm ha hb) s, _,
      exec_of_responseOf (responseOf_f8Mul ha hb) s, rfl, zext16_polymod_toNat _⟩,
    fieldMul_lt _ _, fieldMul_assoc _ _ _, fieldMul_xor_right _ _ _, fieldMul_one_right ha,
    fieldMul_zero_right _⟩

/-- The response is the only answer of a command (R12). -/
theorem answers_iff {i : Instr} {r : Response} : Answers i r ↔ responseOf i = r := by
  constructor
  · intro h
    have hload := (exec_eq i State.reset).symm.trans (h State.reset)
    injection hload with hload
    exact congrArg State.response hload
  · rintro rfl
    exact answers_responseOf i

/-- F8_MUL answers 1 to two field elements exactly when they are inverse to each other. -/
theorem answers_f8Mul_one_iff (ha : a.toNat < 256) (hb : b.toNat < 256) :
    (∃ f, Answers (.f8Mul a b) ⟨1, 0, f⟩) ↔ fieldMul a.toNat b.toNat = 1 := by
  simp only [answers_iff, responseOf_f8Mul ha hb]
  constructor
  · rintro ⟨f, hf⟩
    have hdata : zext16 (fieldMul a.toNat b.toNat) = 1 := congrArg Response.data hf
    calc fieldMul a.toNat b.toNat
        = (zext16 (fieldMul a.toNat b.toNat)).toNat := (zext16_polymod_toNat _).symm
      _ = 1 := by rw [hdata]; rfl
  · intro h
    rw [h]
    exact ⟨_, rfl⟩

/-- Settles O36: an inverse exists, and there is no second one. -/
theorem everyNonzeroFieldElementHasOneInverse :
    Obligations.EveryNonzeroFieldElementHasOneInverse := by
  intro a ha h0
  obtain ⟨v, hv, hinv⟩ := exists_fieldMul_eq_one (BitVec.toNat_ne_iff_ne.mpr h0) ha
  have hb : (zext16 v).toNat = v := zext16_toNat (hv.trans (by decide))
  refine ⟨zext16 v, ⟨hb.symm ▸ hv, ?_⟩, ?_⟩
  · rw [answers_f8Mul_one_iff ha (hb.symm ▸ hv), hb, hinv]
  · intro c hc hcinv
    rw [answers_f8Mul_one_iff ha hc] at hcinv
    apply BitVec.eq_of_toNat_eq
    rw [hb]
    exact eq_of_fieldMul_eq_one hv hc hinv hcinv

/-- Settles O37: the product of two field elements stands on the bus uncut. -/
theorem f8MulIsFeMulThenF8Reduce : Obligations.F8MulIsFeMulThenF8Reduce := by
  intro a b s ha hb
  have hfit : blen (clmul a.toNat b.toNat) ≤ 16 := (blen_clmul_le_15 ha hb).trans (by decide)
  refine ⟨_, exec_of_responseOf (responseOf_feMul_of_fits hfit) s, rfl, exec_congr ?_ s⟩
  rw [responseOf_f8Mul ha hb, responseOf_f8Reduce, zext16_toNat (blen_le_iff.mp hfit), fieldMul]

end Sys2Proof.Machine
end

section
/-! SUPPORT. The digit strings (45_host_rendering.md R121 to R123) against the library's positional digits
`Nat.digits`, which stand least significant first: the model's strings are those digits the other way
round. -/

namespace Sys2Proof.Machine

variable {b : Nat} {v : Data}

theorem readDigits_reverse (b : Nat) (ds : List Nat) : readDigits b ds.reverse = Nat.ofDigits b ds := by
  simp [readDigits, Nat.ofDigits_eq_foldr, List.foldl_reverse, Nat.mul_comm, Nat.add_comm]

/-- The digits of a number most significant first are below the base, do not begin with 0, and read
back. -/
theorem reverse_digits_readBack (hb : 1 < b) {n : Nat} (hn : n ≠ 0) :
    (∀ d ∈ (Nat.digits b n).reverse, d < b) ∧ (Nat.digits b n).reverse.head? ≠ some 0 ∧
      readDigits b (Nat.digits b n).reverse = n := by
  refine ⟨fun d hd => Nat.digits_lt_base hb (List.mem_reverse.mp hd), ?leads, ?reads⟩
  case leads =>
    rw [List.head?_reverse, List.getLast?_eq_getLast_of_ne_nil (Nat.digits_ne_nil_iff_ne_zero.mpr hn)]
    simpa using Nat.getLast_digit_ne_zero b hn
  case reads => rw [readDigits_reverse, Nat.ofDigits_digits]

/-- Digit `i` of a number, for every position its digits have. -/
theorem digits_eq_map_range (hb : 2 ≤ b) (n : Nat) :
    Nat.digits b n = (List.range (Nat.digits b n).length).map fun i => n / b ^ i % b := by
  refine List.ext_getElem (by simp) fun i hi _ => ?_
  rw [List.getElem_map, List.getElem_range, ← Nat.getD_digits n i hb, List.getD_eq_getElem _ _ hi]

/-- A value has as many binary digits as bits (R10). -/
theorem length_digits_two (n : Nat) : (Nat.digits 2 n).length = blen n :=
  eq_of_forall_ge_iff fun _ => (Nat.digits_length_le_iff Nat.one_lt_two n).trans blen_le_iff.symm

/-- A hexadecimal digit stands for four bits, the highest one for at most four. -/
theorem length_digits_sixteen (n : Nat) : (Nat.digits 16 n).length = (blen n + 3) / 4 := by
  refine eq_of_forall_ge_iff fun k => ?_
  calc (Nat.digits 16 n).length ≤ k
      ↔ n < 16 ^ k := Nat.digits_length_le_iff (by decide) n
    _ ↔ n < 2 ^ (4 * k) := by rw [Nat.pow_mul]
    _ ↔ blen n ≤ 4 * k := blen_le_iff.symm
    _ ↔ (blen n + 3) / 4 ≤ k := by omega

/-- The character of a bit is the digit of the bit as a number. -/
theorem bitChar_testBit (n i : Nat) : bitChar (n.testBit i) = Nat.digitChar (n / 2 ^ i % 2) := by
  rw [Nat.testBit_eq_decide_div_mod_eq]
  rcases Nat.mod_two_eq_zero_or_one (n / 2 ^ i) with h | h <;> rw [h] <;> rfl

theorem binaryChars_eq_digits (hv : v ≠ 0) :
    binaryChars v = (Nat.digits 2 v.toNat).reverse.map Nat.digitChar := by
  rw [binaryChars, if_neg hv, iterate, digits_eq_map_range le_rfl, length_digits_two,
    List.map_reverse, List.map_reverse, List.map_map, List.map_map]
  exact congrArg _ (List.map_congr_left fun i _ => bitChar_testBit _ i)

theorem hexDigits_succ (n k : Nat) :
    hexDigits n (k + 1) = Nat.digitChar (n / 16 ^ k % 16) :: hexDigits n k := by
  rw [hexDigits, hexChar, Nat.shiftRight_eq_div_pow, Nat.pow_mul]

/-- `hexDigits n k` lists the `k` lowest hexadecimal digits, the highest of them first. -/
theorem hexDigits_eq_map_range (n k : Nat) :
    hexDigits n k = ((List.range k).map fun i => n / 16 ^ i % 16).reverse.map Nat.digitChar := by
  induction k with
  | zero => rfl
  | succ k ih => simp [hexDigits_succ, ih, List.range_succ]

theorem hexChars_eq_digits (hv : v ≠ 0) :
    hexChars v = (Nat.digits 16 v.toNat).reverse.map Nat.digitChar := by
  rw [hexChars, if_neg hv, hexDigits_eq_map_range, ← length_digits_sixteen,
    ← digits_eq_map_range (by decide)]

/-- Settles O56: both strings are `Nat.digits` reversed, in base 2 and in base 16. -/
theorem digitStringsReadBack : Obligations.DigitStringsReadBack := by
  refine ⟨⟨rfl, rfl⟩, fun v hv => ?_⟩
  have hn : v.toNat ≠ 0 := BitVec.toNat_ne_iff_ne.mpr hv
  obtain ⟨hbits, hbitLead, hbitValue⟩ := reverse_digits_readBack (b := 2) (by decide) hn
  obtain ⟨hhex, hhexLead, hhexValue⟩ := reverse_digits_readBack (b := 16) (by decide) hn
  exact ⟨⟨_, List.length_reverse.trans (length_digits_two _), hbits, hbitLead, hbitValue,
      congrArg String.ofList (binaryChars_eq_digits hv)⟩,
    ⟨_, hhex, hhexLead, hhexValue, congrArg String.ofList (hexChars_eq_digits hv)⟩⟩

/-- The two digits of a field element (R123). -/
theorem hexDigits_fieldElement {n : Nat} (hn : n < 256) :
    hexDigits n (Config.fieldBits / 4) = [Nat.digitChar (n / 16), Nat.digitChar (n % 16)] := by
  have hhigh : n / 16 % 16 = n / 16 := Nat.mod_eq_of_lt (Nat.div_lt_of_lt_mul hn)
  change hexDigits n 2 = _
  rw [hexDigits_succ, hexDigits_succ, Nat.pow_one, hhigh, Nat.pow_zero, Nat.div_one]
  rfl

theorem f8Hex_of_lt (hv : v.toNat < 256) (prefixed : Bool) : f8Hex v prefixed =
    .ok (if prefixed
      then Config.f8HexPrefix ++ String.ofList [Nat.digitChar (v.toNat / 16), Nat.digitChar (v.toNat % 16)]
      else String.ofList [Nat.digitChar (v.toNat / 16), Nat.digitChar (v.toNat % 16)]) := by
  rw [← hexDigits_fieldElement hv]
  exact if_pos hv

theorem f8Hex_of_ge (hv : 256 ≤ v.toNat) (prefixed : Bool) :
    f8Hex v prefixed = .error .f8HexOfUnreducedValue := if_neg (Nat.not_lt.mpr hv)

/-- Settles O57: a field element has two digits, and the size test refuses what is none. -/
theorem f8HexIsTwoDigits : Obligations.F8HexIsTwoDigits :=
  fun _ => ⟨fun hv => ⟨_, rfl, f8Hex_of_lt hv false, f8Hex_of_lt hv true⟩, f8Hex_of_ge⟩

end Sys2Proof.Machine
end

section
/-! SUPPORT. The bits of a value one by one, listed by `iterate` and read by BV_GETBIT
(45_host_rendering.md R125, 40_bitvector.md R73). -/

namespace Sys2Proof.Machine

variable {v : Data} {i : Nat}

theorem length_iterate (v : Data) : (iterate v).length = blen v.toNat := by simp [iterate]

theorem getElem?_iterate (hi : i < blen v.toNat) : (iterate v)[i]? = some (v.toNat.testBit i) := by
  rw [iterate, List.getElem?_map, List.getElem?_range hi, Option.map_some]

/-- An index below the bit length fits the operand field of BV_GETBIT. -/
theorem toNat_ofNat_of_lt_blen (hi : i < blen v.toNat) : (BitVec.ofNat 16 i).toNat = i := by
  have hlen : blen v.toNat ≤ 16 := blen_operand_le v
  rw [BitVec.toNat_ofNat, Nat.mod_eq_of_lt (by omega)]

theorem responseOf_bvGetbit_ofNat (hi : i < blen v.toNat) :
    responseOf (.bvGetbit v (BitVec.ofNat 16 i)) =
      ⟨if v.toNat.testBit i then 1 else 0, 0, false⟩ := by
  have hidx := toNat_ofNat_of_lt_blen hi
  rw [responseOf_bvGetbit_of_lt (hidx.trans_lt hi), hidx, BitVec.testBit_toNat]

/-- Settles O58: element `i` and the data of BV_GETBIT are bit `i`. -/
theorem iterateListsTheBitsOfGetbit : Obligations.IterateListsTheBitsOfGetbit :=
  fun v => ⟨length_iterate v, fun _ s hi =>
    ⟨_, getElem?_iterate hi, exec_of_responseOf (responseOf_bvGetbit_ofNat hi) s⟩⟩

end Sys2Proof.Machine
end

section
/-! SUPPORT. The table of error conditions (60_exceptions.md R130 to R132): which code the response of each
command carries, and that a response with a code carries nothing else. -/

namespace Sys2Proof.Machine

variable {a b : Data}

/-- The shifted value overflows the width exactly on R132's condition for BV_SHL. -/
theorem lt_blen_shiftLeft_iff :
    16 < blen (a.toNat <<< b.toNat) ↔ a ≠ 0 ∧ 16 < blen a.toNat + b.toNat := by
  by_cases h0 : a = 0
  · simp [h0]
  · rw [blen_shiftLeft (BitVec.toNat_ne_iff_ne.mpr h0), and_iff_right h0]

/-- The product overflows the width exactly on R132's condition for FE_MUL. -/
theorem lt_blen_clmul_iff : 16 < blen (clmul a.toNat b.toNat) ↔
    a ≠ 0 ∧ b ≠ 0 ∧ 16 < blen a.toNat + blen b.toNat - 1 := by
  by_cases ha : a = 0
  · simp [ha]
  by_cases hb : b = 0
  · simp [hb]
  rw [blen_clmul (BitVec.toNat_ne_iff_ne.mpr ha) (BitVec.toNat_ne_iff_ne.mpr hb), and_iff_right ha,
    and_iff_right hb]

/-- The code of each command's response is the one R132's table gives. -/
theorem responseOf_err (i : Instr) : (responseOf i).err = errorCodeOf i := by
  cases i with
  | bvGetbit a b =>
    rw [errorCodeOf]
    split
    next h => rw [responseOf_bvGetbit_of_not_lt (not_lt.mpr h)]
    next h => rw [responseOf_bvGetbit_of_lt (not_le.mp h)]
  | bvShl a b =>
    rw [errorCodeOf]
    split
    next h => rw [responseOf_bvShl_of_overflow (lt_blen_shiftLeft_iff.mpr h)]
    next h => rw [responseOf_bvShl_of_fits (not_lt.mp (mt lt_blen_shiftLeft_iff.mp h))]
  | feMul a b =>
    rw [errorCodeOf]
    split
    next h => rw [responseOf_feMul_of_overflow (lt_blen_clmul_iff.mpr h)]
    next h => rw [responseOf_feMul_of_fits (not_lt.mp (mt lt_blen_clmul_iff.mp h))]
  | f8ReduceStrict a b =>
    rw [errorCodeOf]
    split
    next h => rw [responseOf_f8ReduceStrict_of_ge h]
    next h => rw [responseOf_f8ReduceStrict_of_lt (not_le.mp h)]
  | f8Mul a b =>
    rw [errorCodeOf]
    split
    next h => rw [responseOf_f8Mul_of_ge h]
    next h => rw [responseOf_f8Mul_of_lt (not_le.mp h)]
  | bvPass a b | bvLen a b | bvXor a b | bvShr a b | feAdd a b | f8Reduce a b => rfl
  | reservedB a b | reservedC a b | reservedD a b | reservedE a b | reservedF a b => rfl

/-- Settles O12: the code loaded is that of `responseOf`. -/
theorem errorCodeFollowsTheConditionTable : Obligations.ErrorCodeFollowsTheConditionTable :=
  fun i s => ⟨s.writeResponse (responseOf i), exec_eq i s, responseOf_err i⟩

/-- A command completes with data and flag of its own, or raises an error (R12, R131). -/
theorem responseOf_cases (i : Instr) :
    (∃ data red, responseOf i = okResponse data red) ∨ ∃ e, responseOf i = errorResponse e := by
  cases i with
  | bvGetbit a b | feMul a b | f8ReduceStrict a b | f8Mul a b =>
    rw [responseOf]
    split
    · exact .inr ⟨_, rfl⟩
    · exact .inl ⟨_, _, rfl⟩
  | bvShl a b =>
    rw [responseOf]
    split
    · exact .inl ⟨_, _, rfl⟩
    · split
      · exact .inr ⟨_, rfl⟩
      · exact .inl ⟨_, _, rfl⟩
  | bvPass a b | bvLen a b | bvXor a b | bvShr a b | feAdd a b | f8Reduce a b =>
    exact .inl ⟨_, _, rfl⟩
  | reservedB a b | reservedC a b | reservedD a b | reservedE a b | reservedF a b =>
    exact .inr ⟨_, rfl⟩

/-- A response with an error code shows data 0 and flag 0 (R131). -/
theorem responseOf_of_err_ne_zero {i : Instr} (h : (responseOf i).err ≠ 0) :
    responseOf i = ⟨0, (responseOf i).err, false⟩ := by
  obtain ⟨data, red, hok⟩ | ⟨e, herr⟩ := responseOf_cases i
  · rw [hok] at h
    exact absurd rfl h
  · rw [herr]
    rfl

/-- Settles O11: where the table gives a code, the response is an error's. -/
theorem errorResponsesCarryNoPartialResult : Obligations.ErrorResponsesCarryNoPartialResult := by
  intro i s h
  rw [← responseOf_err] at h ⊢
  exact exec_of_responseOf (responseOf_of_err_ne_zero h) s

end Sys2Proof.Machine
end

section
/-! SUPPORT. Where a step stops (93_implementation_defined.md U4, U9): the model's two refusals at an edge, and
their conditions. -/

namespace Sys2Proof.Machine

/-- What use before the first reset edge is (R153, U4). -/
theorem usedTooEarly_iff {s : State} : s.usedTooEarly = true ↔
    s.booted = false ∧ (s.edge.cmdValid = true ∨ s.edge.rspReady = true) := by
  simp [State.usedTooEarly]

/-- A host that presents a command and does not use the block too early has a booted block. -/
theorem booted_of_cmdValid {s : State} (hu : s.usedTooEarly = false) (hv : s.edge.cmdValid = true) :
    s.booted = true := by
  by_contra hb
  rw [usedTooEarly_iff.mpr ⟨Bool.eq_false_of_not_eq_true hb, .inl hv⟩] at hu
  cases hu

/-- An edge that is no use too early, and at which no command with an unknown wire is presented, goes on: a
reset, an acceptance or neither (R156). -/
theorem exists_step_next {s : State} (hu : s.usedTooEarly = false)
    (hc : s.edge.cmdValid = true → s.edge.command ≠ none) : ∃ t, step s = .next t := by
  cases hr : s.edge.rst
  case true => exact ⟨_, step_of_rst hr⟩
  cases hv : s.edge.cmdValid
  case false => exact ⟨_, step_of_no_command hr hu hv⟩
  obtain ⟨w, hw⟩ := Option.ne_none_iff_exists'.mp (hc hv)
  cases ha : s.accepts s.edge
  case false => exact ⟨_, step_of_stall hr hu hw ha⟩
  case true => exact ⟨_, (step_of_accept hu hw ha).trans (exec_eq _ _)⟩

/-- Settles O50: an edge without reset is used too early, or presents a command with an unknown wire, or
goes on. -/
theorem stepStopsOnlyWhereTheSpecRefuses : Obligations.StepStopsOnlyWhereTheSpecRefuses := by
  refine fun s => ⟨?stops, fun hb hr huse => step_of_usedTooEarly hr (usedTooEarly_iff.mpr ⟨hb, huse⟩)⟩
  cases hr : s.edge.rst
  case true => exact .inl ⟨_, step_of_rst hr⟩
  cases hu : s.usedTooEarly
  case true =>
    obtain ⟨hb, huse⟩ := usedTooEarly_iff.mp hu
    exact .inr (.inl ⟨step_of_usedTooEarly hr hu, hb, rfl, huse⟩)
  by_cases hunknown : s.edge.cmdValid = true ∧ s.edge.command = none
  · obtain ⟨hv, hc⟩ := hunknown
    exact .inr (.inr ⟨step_of_unknown hr hu hv hc, booted_of_cmdValid hu hv, rfl, hv, hc⟩)
  · exact .inl (exists_step_next hu fun hv hc => hunknown ⟨hv, hc⟩)

end Sys2Proof.Machine
end

section
/-! SUPPORT. The handshake at an edge (70_reset_and_hazards.md R155 to R157): when a command is accepted or
presented with an unknown wire, and the state an edge without reset leads to. -/

namespace Sys2Proof.Machine

variable {s : State} {e : EdgeInput} {rest : List EdgeInput} {w : CmdWord}

/-- The ready equation (R155). -/
theorem cmdReady_iff : s.cmdReady e = true ↔ e.rst = false ∧ (s.rspValid = false ∨ e.rspReady = true) := by
  simp [State.cmdReady]

theorem accepts_iff : s.accepts e = true ↔ e.cmdValid = true ∧ s.cmdReady e = true := by
  simp [State.accepts]

theorem takes_of_not_rst (hr : e.rst = false) : s.takes e = (s.rspValid && e.rspReady) := by
  simp [State.takes, hr]

/-- On ports with defined wires a command presented is a word (R157). -/
theorem exists_command (hd : e.defined = true) (hv : e.cmdValid = true) : ∃ w, e.command = some w := by
  simpa [EdgeInput.defined, hv, Option.isSome_iff_exists] using hd

/-- An unknown wire in any field leaves no word on the ports (R157). -/
theorem command_eq_none (h : e.cmdOp = .unknown ∨ e.cmdA = .unknown ∨ e.cmdB = .unknown) :
    e.command = none := by
  unfold EdgeInput.command
  split
  next hop ha hb => simp [hop, ha, hb] at h
  next => rfl

theorem afterTake_of_not_takes (h : s.takes s.edge = false) : s.afterTake = s.advance := by
  simp [State.afterTake, h]

/-- The state after an edge that accepts `w`: the response held is taken, `w` is recorded and its own response
loaded (R156). -/
def State.acceptWord (s : State) (w : CmdWord) : State :=
  (s.afterTake.recordAccepted (decode w)).writeResponse (responseOf (decode w))

@[simp] theorem acceptWord_rspValid : (s.acceptWord w).rspValid = true := rfl
@[simp] theorem acceptWord_response : (s.acceptWord w).response = responseOf (decode w) := rfl
@[simp] theorem acceptWord_booted : (s.acceptWord w).booted = s.booted := afterTake_booted s
@[simp] theorem acceptWord_inputs : (s.acceptWord w).inputs = s.inputs.tail := afterTake_inputs s
@[simp] theorem acceptWord_log :
    (s.acceptWord w).log = ⟨decode w, .pending⟩ :: s.afterTake.log := rfl

theorem step_eq_acceptWord (hb : s.booted = true) (hc : s.edge.command = some w)
    (ha : s.accepts s.edge = true) : step s = .next (s.acceptWord w) :=
  (step_of_accept (usedTooEarly_of_booted hb) hc ha).trans (exec_eq _ _)

/-- An edge without reset that accepts nothing only lets the host take a response (R156): no command is
presented, or the block is not ready for the one presented. -/
theorem step_of_not_accepts (hb : s.booted = true) (hd : s.edge.defined = true)
    (hr : s.edge.rst = false) (ha : s.accepts s.edge = false) : step s = .next s.afterTake := by
  have hu : s.usedTooEarly = false := usedTooEarly_of_booted hb
  cases hv : s.edge.cmdValid
  case false => exact step_of_no_command hr hu hv
  case true =>
    obtain ⟨w, hc⟩ := exists_command hd hv
    exact step_of_stall hr hu hc ha

/-- Settles O45: the equation that defines `cmd_ready`, read as a condition. -/
theorem readyEquation : Obligations.ReadyEquation := fun _ _ => cmdReady_iff

/-- Settles O49: an unknown wire leaves no word on the ports, and then `step` refuses. -/
theorem commandsWithUnknownWiresAreRefused : Obligations.CommandsWithUnknownWiresAreRefused := by
  intro s e rest hb hin hr hv hunknown
  obtain rfl := edge_of_inputs hin
  exact step_of_unknown hr (usedTooEarly_of_booted hb) hv (command_eq_none hunknown)

/-- Settles O7: a presented command that the block is ready for is accepted, and without reset the host takes
exactly the held response it is ready for. -/
theorem stepRunsTheDecodedCommand : Obligations.StepRunsTheDecodedCommand := by
  rintro s e rest w i hb hin hr hv hc rfl hready
  obtain rfl := edge_of_inputs hin
  refine ⟨step_of_accept (usedTooEarly_of_booted hb) hc (accepts_iff.mpr ⟨hv, hready⟩), ?_⟩
  rw [afterTake_eq, takes_of_not_rst hr, hin, List.tail_cons]

/-- Settles O47: such an edge is the take alone, which settles the outstanding command with the response
held. -/
theorem edgeWithoutAcceptanceRecordsOnlyTheTake :
    Obligations.EdgeWithoutAcceptanceRecordsOnlyTheTake := by
  intro s e rest hb hin hd hr ha
  obtain rfl := edge_of_inputs hin
  exact ⟨s.afterTake, step_of_not_accepts hb hd hr ha, by simp [hin], by simp [hb],
    fun htakes => by simp [htakes], fun htakes i ts hlog => by simp [htakes, hlog]⟩

/-- Settles O48: without `rsp_ready` the block that holds a response is not ready and the host takes nothing,
so the edge is over when its sample is consumed. -/
theorem responseStaysUntilTakenOrReset : Obligations.ResponseStaysUntilTakenOrReset := by
  intro s e rest hb hheld hin hd hr hnot
  obtain rfl := edge_of_inputs hin
  have haccepts : s.accepts s.edge = false := by simp [State.accepts, State.cmdReady, hheld, hnot]
  have htakes : s.takes s.edge = false := by simp [takes_of_not_rst hr, hnot]
  rw [step_of_not_accepts hb hd hr haccepts, afterTake_of_not_takes htakes, State.advance, hin,
    List.tail_cons]

/-- Settles O46: the edge goes on, and the state it leads to is read off the rule of each clause. -/
theorem edgeUpdate : Obligations.EdgeUpdate := by
  intro s e rest hb hin hd
  obtain rfl := edge_of_inputs hin
  have hgoes : ∃ t, step s = .next t := by
    refine exists_step_next (usedTooEarly_of_booted hb) fun hv => ?_
    obtain ⟨w, hc⟩ := exists_command hd hv
    simp [hc]
  obtain ⟨t, ht⟩ := hgoes
  refine ⟨t, ht, fun hr => ?reset, fun hr ha => ?accept, fun hr ha htakes => ?take,
    fun hr ha htakes => ?hold, rfl, takes_of_not_rst⟩
  case reset =>
    cases ht.symm.trans (step_of_rst hr)
    exact ⟨rfl, rfl, rfl, rfl⟩
  case accept =>
    obtain ⟨hv, -⟩ := accepts_iff.mp ha
    obtain ⟨w, hc⟩ := exists_command hd hv
    cases ht.symm.trans (step_eq_acceptWord hb hc ha)
    exact ⟨rfl, w, hc, answers_responseOf _⟩
  case take =>
    cases ht.symm.trans (step_of_not_accepts hb hd hr ha)
    simp [htakes]
  case hold =>
    cases ht.symm.trans (step_of_not_accepts hb hd hr ha)
    simp [htakes]

end Sys2Proof.Machine
end

section
/-! SUPPORT. Reset edges (70_reset_and_hazards.md R151, R152). -/

namespace Sys2Proof.Machine

/-- A record with no command outstanding at its head has nothing to settle. -/
theorem settleOutstanding_of_head_ne_pending {log : List Transaction}
    (h : ∀ i ts, log ≠ ⟨i, .pending⟩ :: ts) (f : Fate) : settleOutstanding f log = log := by
  cases log with
  | nil => rfl
  | cons t ts =>
    refine settleOutstanding_settled (fun hpending => h t.cmd ts ?_) f ts
    rw [← hpending]

/-- Settles O42: the edge is `resetEdge`, made of those values. -/
theorem resetEdgeLoadsTheResetValues : Obligations.ResetEdgeLoadsTheResetValues := by
  intro s e rest hin hr
  obtain rfl := edge_of_inputs hin
  exact ⟨s.resetEdge, step_of_rst hr, rfl, rfl, rfl, rfl⟩

/-- Settles O43: under `rst` the block is not ready and no response is taken, and `resetEdge` settles the
outstanding command as lost. -/
theorem resetDiscardsTheResponseAndAcceptsNothing :
    Obligations.ResetDiscardsTheResponseAndAcceptsNothing := by
  intro s e rest hin hr
  obtain rfl := edge_of_inputs hin
  have hready : s.cmdReady s.edge = false := cmdReady_of_rst s hr
  refine ⟨hready, by simp [State.accepts, hready], by simp [State.takes, hr],
    s.resetEdge, step_of_rst hr, rfl, rfl, by simp [hin], fun i ts hlog => ?_, fun hlog => ?_⟩
  · simp [hlog]
  · exact settleOutstanding_of_head_ne_pending hlog .lost

end Sys2Proof.Machine
end

section
/-! SUPPORT. Runs of several edges (70_reset_and_hazards.md R153, R158, R160, R161). -/

namespace Sys2Proof.Machine

variable {s t : State} {rest : List EdgeInput} {w : CmdWord}

theorem run_succ (h : step s = .next t) (n : Nat) :
    Sys2Proof.core.run (n + 1) s = Sys2Proof.core.run n t := by
  have hstep : Sys2Proof.core.step s = .next t := h
  simp only [Host.Core.run, hstep]

/-- A host ready for a response finds the block ready, so a booted block accepts the word presented (R155). -/
theorem step_of_present (hb : s.booted = true) (hin : s.inputs = EdgeInput.present w :: rest) :
    step s = .next (s.acceptWord w) := by
  have hedge : s.edge = EdgeInput.present w := edge_of_inputs hin
  refine step_eq_acceptWord hb (by rw [hedge, command_present]) (accepts_iff.mpr ?_)
  rw [hedge]
  exact ⟨rfl, cmdReady_iff.mpr ⟨rfl, .inr rfl⟩⟩

theorem step_of_taking (hb : s.booted = true) (hin : s.inputs = EdgeInput.taking :: rest) :
    step s = .next s.afterTake := by
  have hedge : s.edge = EdgeInput.taking := edge_of_inputs hin
  exact step_of_no_command (by rw [hedge]; rfl) (usedTooEarly_of_booted hb) (by rw [hedge]; rfl)

/-- Settles O44: the reset edge boots the block with an empty record, and the booted block accepts the word
presented at the next edge. -/
theorem oneResetEdgeBootsTheBlock : Obligations.OneResetEdgeBootsTheBlock := by
  intro e w hr
  let s : State := { State.powerUp with inputs := [e, EdgeInput.present w] }
  have hreset : step s = .next s.resetEdge := step_of_rst hr
  have haccept : step s.resetEdge = .next (s.resetEdge.acceptWord w) := step_of_present rfl rfl
  exact ⟨s.resetEdge.acceptWord w, responseOf (decode w), answers_responseOf _,
    (run_succ hreset 1).trans (run_succ haccept 0), rfl, rfl, rfl⟩

/-- Settles O51, by induction on the number of edges: each only consumes its sample. -/
theorem hostThatNeverTakesStallsTheBlock : Obligations.HostThatNeverTakesStallsTheBlock := by
  intro n
  induction n with
  | zero => exact fun _ _ _ _ _ => rfl
  | succ n ih =>
    intro s hn hb hheld hnever
    cases hin : s.inputs with
    | nil => simp [hin] at hn
    | cons e rest =>
      rw [hin] at hn hnever
      obtain ⟨⟨hr, hnot, hd⟩, hrest⟩ := List.forall_mem_cons.mp hnever
      rw [run_succ (responseStaysUntilTakenOrReset s e rest hb hheld hin hd hr hnot)]
      exact ih { s with inputs := rest } (Nat.le_of_succ_le_succ hn) hb hheld hrest

/-- The entry of a command whose answer the host took. -/
def answeredTransaction (w : CmdWord) : Transaction := ⟨decode w, .taken (responseOf (decode w))⟩

/-- The response that an accepted word loads is the one the host takes at its next edge. -/
theorem acceptWord_afterTake_log (ht : (s.acceptWord w).takes (s.acceptWord w).edge = true) :
    (s.acceptWord w).afterTake.log = answeredTransaction w :: s.afterTake.log := by
  simp [ht, answeredTransaction]

/-- While a script of words ending in a taking edge is left, the host is ready at the coming edge, so a
response is taken there if one is held. -/
theorem takes_of_present_script {ws : List CmdWord}
    (hin : s.inputs = ws.map EdgeInput.present ++ [EdgeInput.taking]) : s.takes s.edge = s.rspValid := by
  cases ws with
  | nil => simp [edge_of_inputs hin, State.takes, EdgeInput.taking, EdgeInput.idle]
  | cons w ws => simp [edge_of_inputs hin, State.takes]

/-- A run of words presented back to back to a host that always takes, by induction on the words. Whether or
not a response is held at first, what counts is the record after the coming edge's take. -/
theorem run_present_script (ws : List CmdWord) (hb : s.booted = true)
    (hin : s.inputs = ws.map EdgeInput.present ++ [EdgeInput.taking]) :
    ∃ t : State, Sys2Proof.core.run (ws.length + 1) s = .next t ∧ t.rspValid = false ∧
      t.inputs = [] ∧ t.log = (ws.map answeredTransaction).reverse ++ s.afterTake.log := by
  induction ws generalizing s with
  | nil =>
    refine ⟨s.afterTake, run_succ (step_of_taking hb hin) 0, ?_, by simp [hin], rfl⟩
    simp [takes_of_present_script hin]
  | cons w ws ih =>
    have hin' : (s.acceptWord w).inputs = ws.map EdgeInput.present ++ [EdgeInput.taking] := by
      simp [hin]
    obtain ⟨t, hrun, hvalid, hinputs, hlog⟩ := ih (acceptWord_booted.trans hb) hin'
    refine ⟨t, (run_succ (step_of_present hb hin) _).trans hrun, hvalid, hinputs, ?_⟩
    rw [hlog, acceptWord_afterTake_log (takes_of_present_script hin')]
    simp

theorem forall₂_answers_responseOf (is : List Instr) :
    List.Forall₂ Answers is (is.map responseOf) := by
  simp [List.forall₂_map_right_iff, List.forall₂_same, answers_responseOf]

/-- Settles O55: the answers are those of `responseOf`, and a block that holds no response has nothing to
settle at the first edge. -/
theorem backToBackCommandsAreAllAnsweredInOrder :
    Obligations.BackToBackCommandsAreAllAnsweredInOrder := by
  intro s ws hb hfree hin
  obtain ⟨t, hrun, hvalid, hinputs, hlog⟩ := run_present_script ws hb hin
  refine ⟨t, (ws.map decode).map responseOf, hrun, hvalid, hinputs, forall₂_answers_responseOf _, ?_⟩
  have hfirst : s.afterTake.log = s.log := by simp [takes_of_present_script hin, hfree]
  have hzip : List.zipWith (fun w r => ⟨decode w, .taken r⟩) ws ((ws.map decode).map responseOf) =
      ws.map answeredTransaction := by
    simp [List.zipWith_map_right, List.zipWith_self, answeredTransaction]
  rw [State.transactions, State.transactions, hlog, hfirst, hzip, List.reverse_append,
    List.reverse_reverse]

end Sys2Proof.Machine
end
